-- ==== Sys2Proof/Word.lean ====
section
/-! DEFINITION. The widths of the block: a byte is 8 bits, addresses are 64 and 16 bits, lengths are 16 bits
(spec/00_scope.md R30; every quantity is unsigned). -/

namespace Sys2Proof

/-- A byte: 8 bits, unsigned, 0 to 255 (R30). -/
abbrev Byte := BitVec 8

/-- A 16-bit unsigned quantity: a Length field or a network address (R30, R42). -/
abbrev Half := BitVec 16

/-- A 64-bit address of the mesh (R42). -/
abbrev Addr64 := BitVec 64

end Sys2Proof
end

