-- ==== Sys2Proof/Syntax.lean ====
section
/-! DEFINITION. The operations of the block, one constructor for each row of spec/opcode_table.json, the commands a
host can put on the `cmd` port, and the turns by which the surroundings and the agents move the machine. -/

namespace Sys2Proof

/-- An operation of the block (spec/opcode_table.json).

The seven FRAME rows are the frames of spec/30_encoding.md section 2 with all their fields as operands. A RECEIVED frame
carries its checksum byte `ck` as it stood on the wire, right or wrong; a SENT frame has none, since the ENCODER computes
it. The PORT and PHASE rows have no bit pattern (R75): they are selected by a port or by a phase register. -/
inductive Instr where
  /-- `ENC_TX`: send a TX request frame, type 0x10 (R63, R114). -/
  | encTx (id : Byte) (a64 : Addr64) (a16 : Half) (rad opt : Byte) (payload : List Byte)
  /-- `ENC_AT`: send an AT command frame, type 0x08 (R64, R118). -/
  | encAt (id c1 c2 : Byte)
  /-- `DEC_RX`: a received data frame, type 0x90 (R65, R138). -/
  | decRx (src : Addr64) (net : Half) (opt : Byte) (data : List Byte) (ck : Byte)
  /-- `DEC_ATRESP`: a received AT response frame, type 0x88 (R66, R140). -/
  | decAtresp (id c1 c2 status : Byte) (data : List Byte) (ck : Byte)
  /-- `DEC_MODEM`: a received modem status frame, type 0x8A (R67, R142). -/
  | decModem (status ck : Byte)
  /-- `DEC_TXSTAT`: a received transmit status frame, type 0x8B (R68, R143). -/
  | decTxstat (id : Byte) (net : Half) (retry delivery discovery ck : Byte)
  /-- `DEC_SKIP`: a received frame that is skipped by its declared length (R147, R149, R150). `ty` is the byte at the
  frame-type position and `rest` the `len` bytes after it; with `len = 0` the byte `ty` is really the checksum (R136). -/
  | decSkip (len : Half) (ty : Byte) (rest : List Byte)
  /-- `PUSH`: the accepting case of the receive interrupt (R91). -/
  | push (b : Byte)
  /-- `PUSH_DROP`: the dropping case of the receive interrupt (R92). -/
  | pushDrop (b : Byte)
  /-- `POP` (R93): take the oldest unread byte, feeding the receive sum or not. -/
  | pop (feed : Bool)
  /-- `PEEK` (R94): read the oldest unread byte and leave it there. -/
  | peek
  /-- `AVAILABLE` (R95): is a byte visible to the decoder? -/
  | available
  /-- `SYNC` (R98): refresh the decoder's view of `tail`, the producer's view of `head`, or both. With
  neither it is ill formed, and no turn selects it. -/
  | sync (tailToC headToP : Bool)
  /-- `D_SYNC_DISCARD` (R131). -/
  | dSyncDiscard
  /-- `D_SYNC_MARKER` (R132). -/
  | dSyncMarker
  /-- `D_LEN_HI` (R134). -/
  | dLenHi
  /-- `D_LEN_LO` (R135). -/
  | dLenLo
  /-- `D_TYPE` (R136). -/
  | dType
  /-- `D_BODY` (R137). -/
  | dBody
  /-- `D_CKSUM` (R145). -/
  | dCksum
  /-- `D_SKIP` (R148). -/
  | dSkip
  /-- `CMD_ACCEPT` (R111): accept or reject the command on the `cmd` port. -/
  | cmdAccept
  /-- `E_START` (R112). -/
  | eStart
  /-- `E_LEN`: both length phases, E_LEN_HI and E_LEN_LO (R113). -/
  | eLen
  /-- `E_BODY` (R115). -/
  | eBody
  /-- `E_CKSUM` (R116). -/
  | eCksum
  /-- `RESET` (R200). -/
  | reset
  deriving DecidableEq, Repr

/-- An encode command on the `cmd` port with its operands (R8, R15, R111). -/
inductive Command where
  /-- `ENC_TX` with the TxFrame's fields; the payload's length is the operand `tx_plen`. -/
  | txFrame (id : Byte) (a64 : Addr64) (a16 : Half) (rad opt : Byte) (payload : List Byte)
  /-- `ENC_AT` with the frame id and the two command letters. -/
  | atFrame (id c1 c2 : Byte)
  deriving DecidableEq, Repr

/-- The direction of a frame on the link: the frame-type map depends on it (R70). -/
inductive Direction where
  | sent
  | received
  deriving DecidableEq, Repr

/-- What a step of the SYNC agent copies: "one or both of" the two assignments of R98. -/
inductive SyncCopies where
  /-- `tail_c <- tail`. -/
  | tailOnly
  /-- `head_p <- head`. -/
  | headOnly
  /-- Both assignments. -/
  | both
  deriving DecidableEq, Repr

/-- One turn of the machine: which agent moves next, or what the surroundings do (R5, R8, R214). No order between the
agents is fixed, so the machine reads its turns from a list in its state and, when that is used up, from a free value. -/
inductive Turn where
  /-- The transport strobes one received byte on `rx_in` (R8, R174). -/
  | rx (b : Byte)
  /-- The DECODER takes its next byte step, if it has one (R130). -/
  | decoder
  /-- The ENCODER takes its next byte step, if it has one. -/
  | encoder
  /-- The SYNC agent takes a step (R98). -/
  | sync (copies : SyncCopies)
  /-- The bare ring operation `POP(feed)` of the notation of R76. -/
  | pop (feed : Bool)
  /-- The bare ring operation `PEEK` of R76. -/
  | peek
  /-- The status output `avail` is sampled (R96). -/
  | sample
  /-- `rst` is asserted for this one step (R200). -/
  | reset
  /-- `rst` is driven to a level that holds until it is driven again: high is a reset (R200) during which offered bytes and
  commands are lost (R174, R201), low ends it (assumption 23). -/
  | rst (level : Bool)
  /-- The host offers a command on `cmd` (R8). -/
  | command (c : Command)
  /-- The transport drives `tx_ready` (R110). -/
  | txReady (level : Bool)
  /-- The host drives `ev_ready` (R172). -/
  | evReady (level : Bool)
  /-- A whole frame, as its bytes: `received` on the link, or `sent`, asked for by the host on `cmd`. -/
  | frame (dir : Direction) (bytes : List Byte)
  deriving DecidableEq, Repr, Inhabited

end Sys2Proof
end

