-- ==== Sys2Proof/Config.lean ====
section
/-! DEFINITION. The parameters of the block (spec/00_scope.md R6): the two OPEN ones are a record that the state carries
and no step writes; the others are constants. The free values stand here too. -/

namespace Sys2Proof

/-- `CDC_MODE` (R6, R98, R99). -/
inductive CdcMode where
  /-- The views `tail_c` and `head_p` are registers that SYNC refreshes (R98). -/
  | synchronised
  /-- The views are the indices themselves and there is no SYNC agent (R99). -/
  | atomic
  deriving DecidableEq, Repr

/-- The two OPEN parameters of R6. -/
structure Config where
  /-- `CDC_MODE`. -/
  cdc : CdcMode
  /-- `RXP_MAX`, the receive staging capacity in bytes. -/
  rxpMax : Nat
  deriving DecidableEq, Repr

/-- The defaults of R6: `synchronised` and 65530. -/
def Config.default : Config := { cdc := .synchronised, rxpMax := 65530 }

/-- `RING_N`, the storage slots of the ring (R6). -/
def Config.ringN : Nat := 256

/-- `START`, the start delimiter (R6). -/
def Config.start : Byte := 0x7E

/-- `CHK_OK`, the receive sum of a valid frame (R6). -/
def Config.chkOk : Byte := 0xFF

/-- `PAYLOAD_TX_MAX` (R6). -/
def Config.payloadTxMax : Nat := 241

/-- `TX_OVERHEAD` (R6). -/
def Config.txOverhead : Nat := 14

/-- `RX_OVERHEAD` (R6). -/
def Config.rxOverhead : Nat := 12

/-- `ATRESP_OVERHEAD` (R6). -/
def Config.atrespOverhead : Nat := 5

/-- `ATCMD_LEN` (R6). -/
def Config.atcmdLen : Nat := 4

/-- `MODEM_LEN` (R6). -/
def Config.modemLen : Nat := 2

/-- `TXSTAT_LEN` (R6). -/
def Config.txstatLen : Nat := 7

/-- The code of OVERRUN, which is the `rx_drop` pulse and not an event (R170). -/
def Config.overrunCode : Byte := 0x05

/-- The code of ENC_REJECT, which is `cmd_status = REJECTED` and not an event (R170). -/
def Config.encRejectCode : Byte := 0x06

/-- FREE VALUE (assumption 2): the turn taken when the state lists none. "a step of any enabled agent may be the next
step of the block" (R5), so nothing constrains it. The argument is the state's counter `tick`. -/
opaque Config.freeTurn : Nat → Turn

/-- FREE VALUE (assumption 3): `w` bits that the RESET operation leaves in a piece of state whose reset value is
unspecified (R21: "any value"). `slot` says which piece, `tick` makes every reset a fresh one. -/
opaque Config.freeBits (w slot tick : Nat) : BitVec w

end Sys2Proof
end

