-- ==== Sys2Proof/WellFormed.lean ====
section
/-! DEFINITION. Which operations are well formed: whose operands fit the layouts of spec/30_encoding.md (R63 to R68, R72)
and the widths of the ports. -/

namespace Sys2Proof

/-- Frame types of R70. -/
def typeTx : Byte := 0x10
/-- AT command, R70. -/
def typeAt : Byte := 0x08
/-- RX indicator, R70. -/
def typeRx : Byte := 0x90
/-- AT response, R70. -/
def typeAtresp : Byte := 0x88
/-- Modem status, R70. -/
def typeModem : Byte := 0x8A
/-- Transmit status, R70. -/
def typeTxstat : Byte := 0x8B

/-- `0x90` with a legal Length that fits the staging buffer (R72). -/
def rxLegal (cfg : Config) (len : Nat) : Bool :=
  decide (Config.rxOverhead ≤ len ∧ len - Config.rxOverhead ≤ cfg.rxpMax)

/-- `0x88` with a legal Length that fits the staging buffer (R72). -/
def atrespLegal (cfg : Config) (len : Nat) : Bool :=
  decide (Config.atrespOverhead ≤ len ∧ len - Config.atrespOverhead ≤ cfg.rxpMax)

/-- A received frame that one of the four decoders takes; every other one is skipped (R70, R72). -/
def decodable (cfg : Config) (ty : Byte) (len : Nat) : Bool :=
  (ty == typeRx && rxLegal cfg len) || (ty == typeAtresp && atrespLegal cfg len) ||
    (ty == typeModem && len == Config.modemLen) || (ty == typeTxstat && len == Config.txstatLen)

/-- The operands of `i` fit its layout. -/
def WellFormed (cfg : Config) : Instr → Bool
  | .encTx _ _ _ _ _ payload => decide (payload.length ≤ Config.payloadTxMax)
  | .encAt _ _ _ => true
  | .decRx _ _ _ data _ => decide (data.length + Config.rxOverhead < 65536 ∧ data.length ≤ cfg.rxpMax)
  | .decAtresp _ _ _ _ data _ => decide (data.length + Config.atrespOverhead < 65536 ∧ data.length ≤ cfg.rxpMax)
  | .decModem _ _ => true
  | .decTxstat _ _ _ _ _ _ => true
  | .decSkip len ty rest => rest.length == len.toNat && !decodable cfg ty len.toNat
  | .push _ => true
  | .pushDrop _ => true
  | .pop _ => true
  | .peek => true
  | .available => true
  | .sync tailToC headToP => tailToC || headToP
  | .dSyncDiscard => true
  | .dSyncMarker => true
  | .dLenHi => true
  | .dLenLo => true
  | .dType => true
  | .dBody => true
  | .dCksum => true
  | .dSkip => true
  | .cmdAccept => true
  | .eStart => true
  | .eLen => true
  | .eBody => true
  | .eCksum => true
  | .reset => true

end Sys2Proof
end

