-- ==== Sys2Proof/Decode.lean ====
section
/-! DEFINITION. The frame formats of spec/30_encoding.md: the header rows of R71, the decoder from bytes to operations
(total, refusing by name), the encoder from operations to bytes, the checksum law, the reference decoders of R155, and the
table words of spec/opcode_table.json. -/

namespace Sys2Proof

/-! ### Byte order and the checksum law -/

/-- A 16-bit field received as `h` then `l` (R69: `h ‖ l`). -/
def be16 (h l : Byte) : Half := h ++ l

/-- A 64-bit field received as eight bytes, most significant first (R69). -/
def be64 (b0 b1 b2 b3 b4 b5 b6 b7 : Byte) : Addr64 := b0 ++ b1 ++ b2 ++ b3 ++ b4 ++ b5 ++ b6 ++ b7

/-- Byte `i` of a 16-bit value counting from the most significant (R69). -/
def byteOf16 (v : Half) (i : Nat) : Byte := v.extractLsb' (8 - 8 * i) 8

/-- Byte `i` of a 64-bit value counting from the most significant (R69). -/
def byteOf64 (v : Addr64) (i : Nat) : Byte := v.extractLsb' (56 - 8 * i) 8

/-- `bytes_be(v, 2)` (R117). -/
def bytes16 (v : Half) : List Byte := [byteOf16 v 0, byteOf16 v 1]

/-- `bytes_be(v, 8)` (R117). -/
def bytes64 (v : Addr64) : List Byte :=
  [byteOf64 v 0, byteOf64 v 1, byteOf64 v 2, byteOf64 v 3, byteOf64 v 4, byteOf64 v 5, byteOf64 v 6, byteOf64 v 7]

/-- The sum of a byte string mod 256 (R62). -/
def sumBytes : List Byte → Byte
  | [] => 0
  | b :: bs => b + sumBytes bs

/-- The checksum byte of a body, `0xFF − (sum mod 256)` (R62). -/
def checksumOf (body : List Byte) : Byte := Config.chkOk - sumBytes body

/-! ### The header rows of R71 -/

/-- The FRAME rows of spec/opcode_table.json. -/
inductive RowKind where
  | encTx
  | encAt
  | decRx
  | decAtresp
  | decModem
  | decTxstat
  | decSkip
  deriving DecidableEq, Repr

/-- One FRAME row: a header word `h` fits it when `h &&& mask = value` and the row's condition on the Length holds. -/
structure Row where
  kind : RowKind
  dir : Direction
  mask : BitVec 32
  value : BitVec 32
  deriving DecidableEq, Repr

/-- The rows of spec/opcode_table.json with a bit pattern, in table order. -/
def rows : List Row :=
  [ ⟨.encTx, .sent, 0xFFFF00FF, 0x7E000010⟩,
    ⟨.encAt, .sent, 0xFFFFFFFF, 0x7E000408⟩,
    ⟨.decRx, .received, 0xFF0000FF, 0x7E000090⟩,
    ⟨.decAtresp, .received, 0xFF0000FF, 0x7E000088⟩,
    ⟨.decModem, .received, 0xFFFFFFFF, 0x7E00028A⟩,
    ⟨.decTxstat, .received, 0xFFFFFFFF, 0x7E00078B⟩,
    ⟨.decSkip, .received, 0xFF000000, 0x7E000000⟩ ]

/-- The row's condition on the Length: the table's `len` (R72). -/
def RowKind.lenOk (cfg : Config) (len : Nat) : RowKind → Bool
  | .encTx => decide (Config.txOverhead ≤ len ∧ len ≤ 255)
  | .encAt => len == Config.atcmdLen
  | .decRx => rxLegal cfg len
  | .decAtresp => atrespLegal cfg len
  | .decModem => len == Config.modemLen
  | .decTxstat => len == Config.txstatLen
  | .decSkip => true

/-- The header word of R71: delimiter, Length, frame type, the delimiter in the highest byte. -/
def headerWord (delim lenHi lenLo ty : Byte) : BitVec 32 := delim ++ lenHi ++ lenLo ++ ty

/-- The Length field of a header word, `H[23:8]`. -/
def headerLen (h : BitVec 32) : Half := h.extractLsb' 8 16

/-- Does the header word fit the row (R71)? -/
def Row.fits (cfg : Config) (h : BitVec 32) (r : Row) : Bool :=
  (h &&& r.mask) == r.value && r.kind.lenOk cfg (headerLen h).toNat

/-- The row a header word selects in a direction: the first one that fits, in table order (R71). -/
def rowOf (cfg : Config) (dir : Direction) (h : BitVec 32) : Option RowKind :=
  (rows.find? fun r => r.dir == dir && r.fits cfg h).map Row.kind

/-! ### The decoder -/

/-- Why bytes are not an operation. -/
inductive DecodeError where
  /-- Fewer bytes than the frame's extent (R74). -/
  | truncated
  /-- The first byte is not the start delimiter (R60). -/
  | noMarker
  /-- No row of the direction fits the header: nothing can be sent but 0x10 and 0x08 (R70). -/
  | noRow
  deriving DecidableEq, Repr

/-- Byte `i` of the operand bytes; body offset `i + 1`. -/
def operandByte (os : List Byte) (i : Nat) : Byte := os.getD i 0

/-- The operation of a row, from its Length, its frame type and the `len` bytes after the frame type, which are the rest of
the body and the checksum byte (R63 to R68). -/
def decodeRow (len : Half) (ty : Byte) (os : List Byte) : RowKind → Instr
  | .encTx =>
    .encTx (operandByte os 0)
      (be64 (operandByte os 1) (operandByte os 2) (operandByte os 3) (operandByte os 4) (operandByte os 5)
        (operandByte os 6) (operandByte os 7) (operandByte os 8))
      (be16 (operandByte os 9) (operandByte os 10)) (operandByte os 11) (operandByte os 12)
      ((os.drop 13).take (len.toNat - Config.txOverhead))
  | .encAt => .encAt (operandByte os 0) (operandByte os 1) (operandByte os 2)
  | .decRx =>
    .decRx
      (be64 (operandByte os 0) (operandByte os 1) (operandByte os 2) (operandByte os 3) (operandByte os 4)
        (operandByte os 5) (operandByte os 6) (operandByte os 7))
      (be16 (operandByte os 8) (operandByte os 9)) (operandByte os 10)
      ((os.drop 11).take (len.toNat - Config.rxOverhead)) (operandByte os (len.toNat - 1))
  | .decAtresp =>
    .decAtresp (operandByte os 0) (operandByte os 1) (operandByte os 2) (operandByte os 3)
      ((os.drop 4).take (len.toNat - Config.atrespOverhead)) (operandByte os (len.toNat - 1))
  | .decModem => .decModem (operandByte os 0) (operandByte os 1)
  | .decTxstat =>
    .decTxstat (operandByte os 0) (be16 (operandByte os 1) (operandByte os 2)) (operandByte os 3) (operandByte os 4)
      (operandByte os 5) (operandByte os 6)
  | .decSkip => .decSkip len ty os

/-- The operation at the front of a byte string in a direction, and the bytes after it. A frame's extent is its Length
alone: `len + 4` bytes (R61, R74). -/
def decode (cfg : Config) (dir : Direction) : List Byte → Except DecodeError (Instr × List Byte)
  | delim :: lenHi :: lenLo :: ty :: rest =>
    if delim = Config.start then
      if rest.length < (be16 lenHi lenLo).toNat then .error .truncated
      else
        match rowOf cfg dir (headerWord delim lenHi lenLo ty) with
        | some kind =>
          .ok (decodeRow (be16 lenHi lenLo) ty (rest.take (be16 lenHi lenLo).toNat) kind,
            rest.drop (be16 lenHi lenLo).toNat)
        | none => .error .noRow
    else .error .noMarker
  | delim :: _ => if delim = Config.start then .error .truncated else .error .noMarker
  | [] => .error .truncated

/-! ### The encoder -/

/-- A frame on the wire: delimiter, big-endian Length, body, checksum byte (R60). -/
def wireFrame (body : List Byte) (ck : Byte) : List Byte :=
  Config.start :: (bytes16 (BitVec.ofNat 16 body.length) ++ body ++ [ck])

/-- The body of a TX request (R63). -/
def bodyTx (id : Byte) (a64 : Addr64) (a16 : Half) (rad opt : Byte) (payload : List Byte) : List Byte :=
  [typeTx, id] ++ bytes64 a64 ++ bytes16 a16 ++ [rad, opt] ++ payload

/-- The body of an AT command (R64). -/
def bodyAt (id c1 c2 : Byte) : List Byte := [typeAt, id, c1, c2]

/-- The body of an RX indicator (R65). -/
def bodyRx (src : Addr64) (net : Half) (opt : Byte) (data : List Byte) : List Byte :=
  [typeRx] ++ bytes64 src ++ bytes16 net ++ [opt] ++ data

/-- The body of an AT response (R66). -/
def bodyAtresp (id c1 c2 status : Byte) (data : List Byte) : List Byte := [typeAtresp, id, c1, c2, status] ++ data

/-- The body of a modem status (R67). -/
def bodyModem (status : Byte) : List Byte := [typeModem, status]

/-- The body of a transmit status (R68). -/
def bodyTxstat (id : Byte) (net : Half) (retry delivery discovery : Byte) : List Byte :=
  [typeTxstat, id] ++ bytes16 net ++ [retry, delivery, discovery]

/-- `enc_tx` (R117). -/
def encTxFrame (id : Byte) (a64 : Addr64) (a16 : Half) (rad opt : Byte) (payload : List Byte) : List Byte :=
  wireFrame (bodyTx id a64 a16 rad opt payload) (checksumOf (bodyTx id a64 a16 rad opt payload))

/-- `enc_at` (R119). -/
def encAtFrame (id c1 c2 : Byte) : List Byte := wireFrame (bodyAt id c1 c2) (checksumOf (bodyAt id c1 c2))

/-- The bytes of an operation that has a bit pattern; the PORT and PHASE rows have none (R75). -/
def encode : Instr → Option (List Byte)
  | .encTx id a64 a16 rad opt payload => some (encTxFrame id a64 a16 rad opt payload)
  | .encAt id c1 c2 => some (encAtFrame id c1 c2)
  | .decRx src net opt data ck => some (wireFrame (bodyRx src net opt data) ck)
  | .decAtresp id c1 c2 status data ck => some (wireFrame (bodyAtresp id c1 c2 status data) ck)
  | .decModem status ck => some (wireFrame (bodyModem status) ck)
  | .decTxstat id net retry delivery discovery ck => some (wireFrame (bodyTxstat id net retry delivery discovery) ck)
  | .decSkip len ty rest => some (Config.start :: (bytes16 len ++ ty :: rest))
  | .push _ => none
  | .pushDrop _ => none
  | .pop _ => none
  | .peek => none
  | .available => none
  | .sync _ _ => none
  | .dSyncDiscard => none
  | .dSyncMarker => none
  | .dLenHi => none
  | .dLenLo => none
  | .dType => none
  | .dBody => none
  | .dCksum => none
  | .dSkip => none
  | .cmdAccept => none
  | .eStart => none
  | .eLen => none
  | .eBody => none
  | .eCksum => none
  | .reset => none

/-- The direction in which an operation with a bit pattern travels (R70). -/
def Instr.frameDir : Instr → Option Direction
  | .encTx _ _ _ _ _ _ => some .sent
  | .encAt _ _ _ => some .sent
  | .decRx _ _ _ _ _ => some .received
  | .decAtresp _ _ _ _ _ _ => some .received
  | .decModem _ _ => some .received
  | .decTxstat _ _ _ _ _ _ => some .received
  | .decSkip _ _ _ => some .received
  | .push _ => none
  | .pushDrop _ => none
  | .pop _ => none
  | .peek => none
  | .available => none
  | .sync _ _ => none
  | .dSyncDiscard => none
  | .dSyncMarker => none
  | .dLenHi => none
  | .dLenLo => none
  | .dType => none
  | .dBody => none
  | .dCksum => none
  | .dSkip => none
  | .cmdAccept => none
  | .eStart => none
  | .eLen => none
  | .eBody => none
  | .eCksum => none
  | .reset => none

/-! ### The reference decoders of R155 (test devices, not part of the block) -/

/-- The sum test of R155 over wire offsets 3 to `len + 3`, the body and the checksum byte. -/
def refSumOk (f : List Byte) : Bool := sumBytes (f.drop 3) == Config.chkOk

/-- The Length field of a byte string, `256·F[1] + F[2]` (R155). -/
def refLen (f : List Byte) : Nat := 256 * (f.getD 1 0).toNat + (f.getD 2 0).toNat

/-- `ref_dec_tx(F)` (R155). -/
def refDecTx (f : List Byte) : Option Instr :=
  if f.getD 0 0 = Config.start ∧ f.length = refLen f + 4 ∧ 14 ≤ refLen f ∧ f.getD 3 0 = typeTx ∧ refSumOk f = true then
    some (.encTx (f.getD 4 0)
      (be64 (f.getD 5 0) (f.getD 6 0) (f.getD 7 0) (f.getD 8 0) (f.getD 9 0) (f.getD 10 0) (f.getD 11 0) (f.getD 12 0))
      (be16 (f.getD 13 0) (f.getD 14 0)) (f.getD 15 0) (f.getD 16 0) ((f.drop 17).take (refLen f - 14)))
  else none

/-- `ref_dec_at(F)` (R155). -/
def refDecAt (f : List Byte) : Option Instr :=
  if f.getD 0 0 = Config.start ∧ f.length = refLen f + 4 ∧ refLen f = 4 ∧ f.getD 3 0 = typeAt ∧ refSumOk f = true then
    some (.encAt (f.getD 4 0) (f.getD 5 0) (f.getD 6 0))
  else none

/-! ### The table words of spec/opcode_table.json -/

/-- The low `n` bytes of `w`, the most significant first: the header word of R71 in wire order. -/
def tableBytes : Nat → Nat → List Byte
  | 0, _ => []
  | n + 1, w => BitVec.ofNat 8 (w >>> (8 * n)) :: tableBytes n w

/-- The frame a table word stands for: the bytes the table gives, then zeros up to the frame's own extent (R61). -/
def tableFrame (nbits w : Nat) : List Byte :=
  let given := tableBytes (nbits / 8) w
  let bs := given ++ List.replicate (4 - given.length) 0
  bs ++ List.replicate ((be16 (bs.getD 1 0) (bs.getD 2 0)).toNat + 4 - bs.length) 0

/-- The direction of a table word: the rows are tried in table order, so a header that fits a sent row is a sent frame
(assumption 8). -/
def tableDirection (nbits w : Nat) : Direction :=
  match decode Config.default .sent (tableFrame nbits w) with
  | .ok _ => .sent
  | .error _ => .received

/-- The operation of a table word. -/
def decodeTableWord (nbits w : Nat) : Option Instr :=
  match decode Config.default (tableDirection nbits w) (tableFrame nbits w) with
  | .ok (i, _) => some i
  | .error _ => none

end Sys2Proof
end

