-- ==== Sys2Proof/Machine/State.lean ====
section
/-! DEFINITION. The state of the block as plain data (spec/10_state.md), the model's own fields beside it (ports and
traces, turns, counter), the reasons a step can stop, and the state after reset. -/

namespace Sys2Proof.Machine

/-- An addressed store of bytes: (address, byte) pairs, addresses strictly rising, no entry equal to what an unlisted
address reads as. The operations on it stand in Machine/Ops.lean. -/
abbrev Memory := List Host.Cell

/-- The decoder's phases (R16), its part of the program counter (R13). -/
inductive DPhase where
  | dSync
  | dLenHi
  | dLenLo
  | dType
  | dBody
  | dCksum
  | dSkip
  deriving DecidableEq, Repr

/-- `d_path` (R16). -/
inductive DPath where
  | rx
  | atresp
  | modem
  | txstat
  deriving DecidableEq, Repr

/-- The encoder's phases (R17). -/
inductive EPhase where
  | eIdle
  | eStart
  | eLenHi
  | eLenLo
  | eBody
  | eCksum
  deriving DecidableEq, Repr

/-- `e_kind` (R15). -/
inductive EKind where
  | tx
  | atCmd
  deriving DecidableEq, Repr

/-- An event record on `ev` (R170). -/
inductive Event where
  | rxData (src : Addr64) (net : Half) (opt : Byte) (data : List Byte)
  | atResponse (id status : Byte) (data : List Byte)
  | modemStatus (status : Byte)
  | txStatus (id : Byte) (net : Half) (retry delivery discovery : Byte) (sendFailed : Bool)
  | checksumFail (ty : Byte) (len : Half)
  | unknownType (ty : Byte) (len : Half)
  | badLength (ty : Byte) (len : Half)
  | oversize (ty : Byte) (len : Half)
  deriving DecidableEq, Repr

/-- `cmd_status` (R111). -/
inductive CmdStatus where
  | accepted
  | rejected
  deriving DecidableEq, Repr

/-- What a bare POP, PEEK or AVAILABLE returns (R93, R94, R95). -/
inductive Result where
  | byte (b : Byte)
  | flag (v : Bool)
  deriving DecidableEq, Repr

/-- The RX-side decoder state: control registers (R16), receive sum (R18) and decode result registers (R19). -/
structure DecoderState where
  phase : DPhase
  len : Half
  path : DPath
  pos : BitVec 16
  rem : BitVec 17
  rxSum : Byte
  addr64 : Addr64
  addr16 : Half
  opts : Byte
  id : Byte
  status : Byte
  retry : Byte
  delivery : Byte
  discovery : Byte
  plen : BitVec 16
  rxp : Memory
  deriving DecidableEq, Repr

/-- The TX-side encoder state: control registers (R17), transmit sum (R18) and encode operand registers (R15). -/
structure EncoderState where
  phase : EPhase
  len : Half
  pos : BitVec 16
  kind : EKind
  txSum : Byte
  txId : Byte
  txAddr64 : Addr64
  txAddr16 : Half
  txRadius : Byte
  txOpts : Byte
  txPlen : Byte
  txp : Memory
  atId : Byte
  atC1 : Byte
  atC2 : Byte
  deriving DecidableEq, Repr

/-- The MODEL's own fields for the five interfaces of R8: the levels the surroundings drive, the commands that wait on
`cmd`, and what the block has shown to the outside (R7). None of them is a register of the block. R8 also names
`tx_valid` and `ev_valid` and no rule says when they are high: DESIGN CHOICE (assumption 22), neither level is held, and a
transfer is one atomic step. -/
structure Ports where
  /-- Commands offered on `cmd` and not yet answered, oldest first: the first one is on the port. -/
  cmds : List Command
  /-- The last reply on `cmd_status`. -/
  cmdStatus : Option CmdStatus
  /-- The level of `tx_ready`. -/
  txReady : Bool
  /-- The level of `ev_ready`. -/
  evReady : Bool
  /-- The level of `rst`: high while the block is in reset (R174, R201; assumption 23). -/
  rst : Bool
  /-- Every byte handed to `tx_out`, in order. -/
  txOut : List Byte
  /-- Every event delivered on `ev`, in order. -/
  events : List Event
  /-- Every byte dropped, in order: one `rx_drop` pulse for each. -/
  rxDrops : List Byte
  /-- What the last bare POP, PEEK or AVAILABLE returned. -/
  ret : Option Result
  deriving DecidableEq, Repr

/-- The whole state of the block as one value (R10), with the parameters, the ports and the turns. -/
structure State where
  /-- The parameters of R6; no step writes them. -/
  cfg : Config
  /-- `ring[0..255]` (R11). -/
  ring : Memory
  /-- `head`, the read cursor (R12). -/
  head : BitVec 8
  /-- `tail`, the write cursor (R12). -/
  tail : BitVec 8
  /-- `head_p`, the producer's view of `head` (R14). -/
  headP : BitVec 8
  /-- `tail_c`, the decoder's view of `tail` (R14). -/
  tailC : BitVec 8
  /-- The RX-side decoder state. -/
  dec : DecoderState
  /-- The TX-side encoder state. -/
  enc : EncoderState
  /-- The interfaces (the model's own). -/
  port : Ports
  /-- The turns to come (the model's own). -/
  sched : List Turn
  /-- Counts the free values used (the model's own). -/
  tick : Nat
  deriving DecidableEq, Repr

/-- Why a step faults. The spec has no fault (R173): each of these is an access to a place that a layout of the spec does
not have, in a state that no run from reset reaches. All are SAFE: the model stops where the spec says nothing. -/
inductive Fault where
  /-- Raised by E_BODY: the body offset lies outside the frame's layout (R114, R118). SAFE. -/
  | bodyOffset (k : Nat)
  /-- Raised by D_BODY: the body offset lies outside the path's store function, or outside `RXP` (R138 to R143). SAFE. -/
  | storeOffset (k : Nat)
  deriving DecidableEq, Repr

/-- Why a step is refused. -/
inductive Refusal where
  /-- The operation has no meaning yet. Raised by `exec` only. SAFE. -/
  | notModelled (mnemonic : String)
  deriving DecidableEq, Repr

/-- The decoder after reset (R21); the values R21 leaves unspecified are zero (assumption 1). -/
def DecoderState.reset : DecoderState :=
  { phase := .dSync, len := 0, path := .rx, pos := 0, rem := 0, rxSum := 0, addr64 := 0, addr16 := 0, opts := 0, id := 0,
    status := 0, retry := 0, delivery := 0, discovery := 0, plen := 0, rxp := [] }

/-- The encoder after reset (R21); the values R21 leaves unspecified are zero (assumption 1). -/
def EncoderState.reset : EncoderState :=
  { phase := .eIdle, len := 0, pos := 0, kind := .tx, txSum := 0, txId := 0, txAddr64 := 0, txAddr16 := 0, txRadius := 0,
    txOpts := 0, txPlen := 0, txp := [], atId := 0, atC1 := 0, atC2 := 0 }

/-- The ports right after reset: `rst` low, nothing offered, nothing shown, both ready levels high (assumption 10). -/
def Ports.reset : Ports :=
  { cmds := [], cmdStatus := none, txReady := true, evReady := true, rst := false, txOut := [], events := [], rxDrops := [], ret := none }

/-- The machine right after reset (R21, R200), with the default parameters of R6 and no turn listed. -/
def State.reset : State :=
  { cfg := Config.default, ring := [], head := 0, tail := 0, headP := 0, tailC := 0, dec := DecoderState.reset,
    enc := EncoderState.reset, port := Ports.reset, sched := [], tick := 0 }

end Sys2Proof.Machine
end

