-- ==== Sys2Proof/Machine/Ops.lean ====
section
/-! DEFINITION. The named operations over memory, the ring, the two output ports and failures: spec/40_ring_buffer.md
(R90 to R99), spec/41_encode.md R110, spec/60_exceptions.md R172 and R176. -/

namespace Sys2Proof.Machine

/-! ### Stores of bytes (R40) -/

/-- What a slot that nothing has written reads as (assumption 4). -/
def Memory.fill : Byte := 0

/-- `MemRead(a, 1)` (R40). -/
def Memory.read : Memory → Nat → Byte
  | [], _ => Memory.fill
  | (k, v) :: rest, a => if k = a then v else Memory.read rest a

/-- `MemWrite(a, 1, v)` (R40), which keeps the canonical form. -/
def Memory.write : Memory → Nat → Byte → Memory
  | [], a, v => if v = Memory.fill then [] else [(a, v)]
  | (k, w) :: rest, a, v =>
    if a < k then (if v = Memory.fill then (k, w) :: rest else (a, v) :: (k, w) :: rest)
    else if a = k then (if v = Memory.fill then rest else (a, v) :: rest)
    else (k, w) :: Memory.write rest a v

/-- Bytes written one after another from address `a`. -/
def Memory.writeList : Memory → Nat → List Byte → Memory
  | m, _, [] => m
  | m, a, b :: bs => Memory.writeList (Memory.write m a b) (a + 1) bs

/-- The `n` bytes from address `a`. -/
def Memory.readList (m : Memory) : Nat → Nat → List Byte
  | _, 0 => []
  | a, n + 1 => Memory.read m a :: Memory.readList m (a + 1) n

/-- The canonical form from address `lo` on, all addresses below `bound`. -/
def Memory.wfFrom (bound : Nat) : Nat → Memory → Bool
  | _, [] => true
  | lo, (k, v) :: rest => decide (lo ≤ k) && decide (k < bound) && decide (v ≠ Memory.fill) && Memory.wfFrom bound (k + 1) rest

/-- The canonical form: addresses strictly rising and below `bound`, no entry equal to what an unlisted one reads as. -/
def Memory.wf (bound : Nat) (m : Memory) : Bool := Memory.wfFrom bound 0 m

/-- A store of `n` bytes whose contents are unspecified (R21): free values (assumption 3). -/
def Memory.free (slot tick n : Nat) : Memory :=
  Memory.writeList [] 0 ((List.range n).map fun i => Config.freeBits 8 (slot + i) tick)

/-! ### Derived quantities of the ring (R12, R20, R90) -/

/-- What the decoder reads as `tail_c` (R14, R99). -/
def State.tailView (s : State) : BitVec 8 :=
  match s.cfg.cdc with
  | .synchronised => s.tailC
  | .atomic => s.tail

/-- What the producer reads as `head_p` (R14, R99). -/
def State.headView (s : State) : BitVec 8 :=
  match s.cfg.cdc with
  | .synchronised => s.headP
  | .atomic => s.head

/-- `avail`: is a byte visible to the decoder (R90)? -/
def State.avail (s : State) : Bool := s.head != s.tailView

/-- `full_p`: does the producer see a full ring (R90)? -/
def State.fullP (s : State) : Bool := s.tail + 1 == s.headView

/-- `count`, the number of unread bytes (R12). -/
def State.count (s : State) : Nat := (s.tail - s.head).toNat

/-- `enc_busy` (R17, R20). -/
def State.encBusy (s : State) : Bool := s.enc.phase != .eIdle

/-- `cmd_ready` (R17). -/
def State.cmdReady (s : State) : Bool := !s.encBusy

/-! ### Ring operations -/

/-- The byte at `head`: what PEEK and POP return (R93, R94). -/
def State.headByte (s : State) : Byte := s.ring.read s.head.toNat

/-- The byte written and `tail` advanced (R91). -/
def State.pushByte (s : State) (b : Byte) : State :=
  { s with ring := s.ring.write s.tail.toNat b, tail := s.tail + 1 }

/-- The byte dropped: an `rx_drop` pulse and nothing else (R92, R180). -/
def State.dropByte (s : State) (b : Byte) : State :=
  { s with port := { s.port with rxDrops := s.port.rxDrops ++ [b] } }

/-- The state after `POP(feed)` (R93); the byte is `State.headByte` of the state before. -/
def State.popByte (s : State) (feed : Bool) : State :=
  { s with head := s.head + 1,
           dec := { s.dec with rxSum := if feed then s.dec.rxSum + s.headByte else s.dec.rxSum } }

/-- The assignments of a SYNC step (R98). With `CDC_MODE = atomic` there is no SYNC agent and nothing to refresh (R99). -/
def State.syncViews (s : State) (tailToC headToP : Bool) : State :=
  match s.cfg.cdc with
  | .synchronised =>
    { s with tailC := if tailToC then s.tail else s.tailC, headP := if headToP then s.head else s.headP }
  | .atomic => s

/-- The value a bare operation returns (R76). -/
def State.answer (s : State) (r : Result) : State := { s with port := { s.port with ret := some r } }

/-! ### Output ports -/

/-- `emit_ev(E)` (R31, R172). -/
def State.emit (s : State) (e : Event) : State := { s with port := { s.port with events := s.port.events ++ [e] } }

/-- `send_byte(b)` (R31, R110). -/
def State.sendByte (s : State) (b : Byte) : State := { s with port := { s.port with txOut := s.port.txOut ++ [b] } }

/-- The code of an event (R170). -/
def Event.code : Event → Byte
  | .rxData _ _ _ _ => 0x90
  | .atResponse _ _ _ => 0x88
  | .modemStatus _ => 0x8A
  | .txStatus _ _ _ _ _ _ => 0x8B
  | .checksumFail _ _ => 0x01
  | .unknownType _ _ => 0x02
  | .badLength _ _ => 0x03
  | .oversize _ _ => 0x04

/-! ### Failures: the block's whole trap mechanism (R176) -/

/-- The failures a DECODER step can raise (R171). -/
inductive Failure where
  | checksumFail
  | unknownType
  | badLength
  | oversize
  deriving DecidableEq, Repr

/-- The event of a failure, with its frame type and Length (R171). -/
def Failure.event (ty : Byte) (len : Half) : Failure → Event
  | .checksumFail => .checksumFail ty len
  | .unknownType => .unknownType ty len
  | .badLength => .badLength ty len
  | .oversize => .oversize ty len

/-- `raise K(type, len)` (R176): deliver the event, leave every other register as it is, and go to D_SYNC after a checksum
failure or to D_SKIP with `d_rem = d_len + 1` after a failure found at D_TYPE. Nothing is saved, and there is no return
from it (R177): the DECODER goes on from its new phase. -/
def State.raise (s : State) (k : Failure) (ty : Byte) : State :=
  match k with
  | .checksumFail => { s.emit (k.event ty s.dec.len) with dec := { s.dec with phase := .dSync } }
  | .unknownType | .badLength | .oversize =>
    { s.emit (k.event ty s.dec.len) with dec := { s.dec with phase := .dSkip, rem := s.dec.len.setWidth 17 + 1 } }

/-! ### Outcomes -/

/-- An operation that is not enabled has no step: its agent waits and the state stays (R31; assumption 7). -/
def wait (s : State) : Host.Outcome State Fault Refusal := .next s

/-- One operation after another; a fault or a refusal ends the sequence. -/
def andThen (o : Host.Outcome State Fault Refusal) (f : State → Host.Outcome State Fault Refusal) :
    Host.Outcome State Fault Refusal :=
  match o with
  | .next s => f s
  | .fault r => .fault r
  | .refused r => .refused r

end Sys2Proof.Machine
end

