-- ==== Sys2Proof/Machine/Flags.lean ====
section
/-! DEFINITION. The checksum accumulators, the block's only flag-like state (spec/10_state.md R18), and every computation
on them. The receive sum is also fed by `State.popByte` (R93). -/

namespace Sys2Proof.Machine

/-- `tx_sum <- 0`, in the step that sends the second length byte (R113). -/
def State.clearTxSum (s : State) : State := { s with enc := { s.enc with txSum := 0 } }

/-- `tx_sum <- (tx_sum + b) mod 256` (R115). -/
def State.addTxSum (s : State) (b : Byte) : State := { s with enc := { s.enc with txSum := s.enc.txSum + b } }

/-- `0xFF − tx_sum`, the checksum byte that E_CKSUM sends (R116). -/
def State.txChecksum (s : State) : Byte := Config.chkOk - s.enc.txSum

/-- `rx_sum <- 0`, in the step that consumes the second length byte (R135). -/
def State.clearRxSum (s : State) : State := { s with dec := { s.dec with rxSum := 0 } }

/-- `rx_sum == 0xFF`, the test of D_CKSUM after the checksum byte was added (R145). -/
def State.rxSumOk (s : State) : Bool := s.dec.rxSum == Config.chkOk

end Sys2Proof.Machine
end

