-- ==== Sys2Proof/Machine/Operands.lean ====
section
/-! DEFINITION. How frame bytes reach and leave the registers: the routing of D_TYPE, the store functions of the four
decode paths, the event of a path, the body bytes of the two sent frames, and the latching of a command
(spec/30_encoding.md R69, spec/42_decode.md R136 to R143, spec/41_encode.md R111, R114, R118). -/

namespace Sys2Proof.Machine

/-! ### Field assembly (R69) -/

/-- `reg <- ((reg · 256) mod 2^64) + b`. -/
def shiftIn64 (reg : Addr64) (b : Byte) : Addr64 := (reg <<< 8) + b.setWidth 64

/-- `reg <- ((reg · 256) mod 2^16) + b`. -/
def shiftIn16 (reg : Half) (b : Byte) : Half := (reg <<< 8) + b.setWidth 16

/-! ### Routing (R136) -/

/-- What D_TYPE decides: a decode path with its payload length, or a failure. -/
inductive Route where
  | path (p : DPath) (q : BitVec 16)
  | fail (k : Failure)
  deriving DecidableEq, Repr

/-- A known path with the payload length, when the Length is legal and the payload fits (R136). -/
def routeSized (cfg : Config) (p : DPath) (overhead : Nat) (len : Half) : Route :=
  if len.toNat < overhead then .fail .badLength
  else if cfg.rxpMax < len.toNat - overhead then .fail .oversize
  else .path p (len - BitVec.ofNat 16 overhead)

/-- A known path of one fixed Length (R136). -/
def routeFixed (p : DPath) (want : Nat) (len : Half) : Route :=
  if len.toNat = want then .path p 0 else .fail .badLength

/-- The case distinction of D_TYPE over the peeked byte and `d_len` (R136, priority R175). -/
def route (cfg : Config) (ty : Byte) (len : Half) : Route :=
  if ty = typeRx then routeSized cfg .rx Config.rxOverhead len
  else if ty = typeAtresp then routeSized cfg .atresp Config.atrespOverhead len
  else if ty = typeModem then routeFixed .modem Config.modemLen len
  else if ty = typeTxstat then routeFixed .txstat Config.txstatLen len
  else .fail .unknownType

/-! ### Store functions (R138, R140, R142, R143) -/

/-- A byte put into `RXP`, when the slot exists (R19). -/
def storeRxp (cfg : Config) (d : DecoderState) (i : Nat) (b : Byte) : Option DecoderState :=
  if i < cfg.rxpMax then some { d with rxp := d.rxp.write i b } else none

/-- `store(RX, k, b)` (R138). -/
def storeRx (cfg : Config) (d : DecoderState) (k : Nat) (b : Byte) : Option DecoderState :=
  if k = 0 then some d
  else if k ≤ 8 then some { d with addr64 := shiftIn64 d.addr64 b }
  else if k ≤ 10 then some { d with addr16 := shiftIn16 d.addr16 b }
  else if k = 11 then some { d with opts := b }
  else storeRxp cfg d (k - 12) b

/-- `store(ATRESP, k, b)` (R140). -/
def storeAtresp (cfg : Config) (d : DecoderState) (k : Nat) (b : Byte) : Option DecoderState :=
  if k = 0 then some d
  else if k = 1 then some { d with id := b }
  else if k ≤ 3 then some d
  else if k = 4 then some { d with status := b }
  else storeRxp cfg d (k - 5) b

/-- `store(MODEM, k, b)` (R142); the layout ends at offset 1. -/
def storeModem (d : DecoderState) (k : Nat) (b : Byte) : Option DecoderState :=
  if k = 0 then some d
  else if k = 1 then some { d with status := b }
  else none

/-- `store(TXSTAT, k, b)` (R143); the layout ends at offset 6. -/
def storeTxstat (d : DecoderState) (k : Nat) (b : Byte) : Option DecoderState :=
  if k = 0 then some d
  else if k = 1 then some { d with id := b }
  else if k ≤ 3 then some { d with addr16 := shiftIn16 d.addr16 b }
  else if k = 4 then some { d with retry := b }
  else if k = 5 then some { d with delivery := b }
  else if k = 6 then some { d with discovery := b }
  else none

/-- `store(d_path, k, b)` (R137); `none` where the path's layout has no offset `k`. -/
def store (cfg : Config) (d : DecoderState) (k : Nat) (b : Byte) : Option DecoderState :=
  match d.path with
  | .rx => storeRx cfg d k b
  | .atresp => storeAtresp cfg d k b
  | .modem => storeModem d k b
  | .txstat => storeTxstat d k b

/-! ### Events (R139, R141, R142, R143, R145) -/

/-- `type_of(d_path)` (R145). -/
def DPath.frameType : DPath → Byte
  | .rx => typeRx
  | .atresp => typeAtresp
  | .modem => typeModem
  | .txstat => typeTxstat

/-- The event of a path, from the result registers: "the event of d_path" (R145). -/
def DecoderState.event (d : DecoderState) : Event :=
  match d.path with
  | .rx => .rxData d.addr64 d.addr16 d.opts (d.rxp.readList 0 d.plen.toNat)
  | .atresp => .atResponse d.id d.status (d.rxp.readList 0 d.plen.toNat)
  | .modem => .modemStatus d.status
  | .txstat => .txStatus d.id d.addr16 d.retry d.delivery d.discovery (d.delivery != 0)

/-! ### Sent bodies (R114, R118) -/

/-- `body_tx(k)` (R114); `none` outside the slots of `TXP`. -/
def bodyTxByte (e : EncoderState) (k : Nat) : Option Byte :=
  if k = 0 then some typeTx
  else if k = 1 then some e.txId
  else if k ≤ 9 then some (byteOf64 e.txAddr64 (k - 2))
  else if k ≤ 11 then some (byteOf16 e.txAddr16 (k - 10))
  else if k = 12 then some e.txRadius
  else if k = 13 then some e.txOpts
  else if k - 14 < Config.payloadTxMax then some (e.txp.read (k - 14))
  else none

/-- `body_at(k)` (R118); the layout ends at offset 3. -/
def bodyAtByte (e : EncoderState) (k : Nat) : Option Byte :=
  if k = 0 then some typeAt
  else if k = 1 then some e.atId
  else if k = 2 then some e.atC1
  else if k = 3 then some e.atC2
  else none

/-- The body byte at offset `k` of the frame being sent (R115). -/
def bodyByte (e : EncoderState) (k : Nat) : Option Byte :=
  match e.kind with
  | .tx => bodyTxByte e k
  | .atCmd => bodyAtByte e k

/-! ### Command acceptance (R111) -/

/-- A command the block cannot frame: an ENC_TX whose payload is longer than 241 bytes. -/
def commandOversized : Command → Bool
  | .txFrame _ _ _ _ _ payload => decide (Config.payloadTxMax < payload.length)
  | .atFrame _ _ _ => false

/-- All operands of the command latched, `e_kind`, `e_len` and `e_pos` set, and the phase at E_START (R111). -/
def EncoderState.latch (e : EncoderState) : Command → EncoderState
  | .txFrame id a64 a16 rad opt payload =>
    { e with phase := .eStart, kind := .tx, pos := 0, txId := id, txAddr64 := a64, txAddr16 := a16, txRadius := rad,
             txOpts := opt, txPlen := BitVec.ofNat 8 payload.length, txp := e.txp.writeList 0 payload,
             len := (BitVec.ofNat 8 payload.length).setWidth 16 + BitVec.ofNat 16 Config.txOverhead }
  | .atFrame id c1 c2 =>
    { e with phase := .eStart, kind := .atCmd, pos := 0, atId := id, atC1 := c1, atC2 := c2,
             len := BitVec.ofNat 16 Config.atcmdLen }

end Sys2Proof.Machine
end

