-- ==== Sys2Proof/Machine/Ring.lean ====
section
/-! DEFINITION. The ring operations: PUSH, PUSH_DROP, POP, PEEK, AVAILABLE and SYNC (spec/40_ring_buffer.md). -/

namespace Sys2Proof.Machine

/-- `PUSH`, accepting case (R91): enabled while the producer does not see a full ring. -/
def execPush (b : Byte) (s : State) : Host.Outcome State Fault Refusal :=
  if s.fullP then wait s else .next (s.pushByte b)

/-- `PUSH_DROP`, dropping case (R92): enabled while the producer sees a full ring. -/
def execPushDrop (b : Byte) (s : State) : Host.Outcome State Fault Refusal :=
  if s.fullP then .next (s.dropByte b) else wait s

/-- `POP(feed)` (R93): enabled while a byte is visible; returns it. -/
def execPop (feed : Bool) (s : State) : Host.Outcome State Fault Refusal :=
  if s.avail then .next ((s.popByte feed).answer (.byte s.headByte)) else wait s

/-- `PEEK` (R94): enabled while a byte is visible; returns it and leaves it there. -/
def execPeek (s : State) : Host.Outcome State Fault Refusal :=
  if s.avail then .next (s.answer (.byte s.headByte)) else wait s

/-- `AVAILABLE` (R95): always enabled. -/
def execAvailable (s : State) : Host.Outcome State Fault Refusal := .next (s.answer (.flag s.avail))

/-- `SYNC` (R98): always enabled. -/
def execSync (tailToC headToP : Bool) (s : State) : Host.Outcome State Fault Refusal :=
  .next (s.syncViews tailToC headToP)

/-- The receive interrupt for one byte: its handler is PUSH, in the accepting or the dropping case; a byte that arrives
while the block is in reset is lost, with no PUSH and no `rx_drop` (R174, R201). -/
def rxInterrupt (b : Byte) (s : State) : Host.Outcome State Fault Refusal :=
  if s.port.rst then .next s else if s.fullP then execPushDrop b s else execPush b s

end Sys2Proof.Machine
end

