-- ==== Sys2Proof/Machine/DecoderPhases.lean ====
section
/-! DEFINITION. The DECODER's byte steps, one for each phase row: D_SYNC_DISCARD, D_SYNC_MARKER, D_LEN_HI, D_LEN_LO,
D_TYPE, D_BODY, D_CKSUM, D_SKIP (spec/42_decode.md). -/

namespace Sys2Proof.Machine

/-- The phase register written: `pc <- target` for the decoder (R31). -/
def State.toDPhase (s : State) (p : DPhase) : State := { s with dec := { s.dec with phase := p } }

/-- `D_SYNC_DISCARD` (R131): a byte that is no marker is thrown away. -/
def execDSyncDiscard (s : State) : Host.Outcome State Fault Refusal :=
  if s.dec.phase = .dSync ∧ s.avail = true ∧ s.headByte ≠ Config.start then .next (s.popByte false) else wait s

/-- `D_SYNC_MARKER` (R132): the start marker is consumed. -/
def execDSyncMarker (s : State) : Host.Outcome State Fault Refusal :=
  if s.dec.phase = .dSync ∧ s.avail = true ∧ s.headByte = Config.start then .next ((s.popByte false).toDPhase .dLenHi)
  else wait s

/-- `d_len <- 256 · b` (R134). -/
def State.setLenHi (s : State) (b : Byte) : State := { s with dec := { s.dec with len := be16 b 0 } }

/-- `D_LEN_HI` (R134). -/
def execDLenHi (s : State) : Host.Outcome State Fault Refusal :=
  if s.dec.phase = .dLenHi ∧ s.avail = true then .next (((s.popByte false).setLenHi s.headByte).toDPhase .dLenLo)
  else wait s

/-- `d_len <- d_len + b`, `d_pos <- 0` (R135). -/
def State.addLenLo (s : State) (b : Byte) : State :=
  { s with dec := { s.dec with len := s.dec.len + b.setWidth 16, pos := 0 } }

/-- `D_LEN_LO` (R135): the low length byte, and the receive sum cleared. -/
def execDLenLo (s : State) : Host.Outcome State Fault Refusal :=
  if s.dec.phase = .dLenLo ∧ s.avail = true then
    .next ((((s.popByte false).addLenLo s.headByte).clearRxSum).toDPhase .dType)
  else wait s

/-- A path chosen: `d_path`, `r_plen`, `d_pos` and the phase D_BODY (R136). -/
def State.enterBody (s : State) (p : DPath) (q : BitVec 16) : State :=
  { s with dec := { s.dec with path := p, plen := q, pos := 0, phase := .dBody } }

/-- `D_TYPE` (R136): route by the peeked byte and the Length; a report waits for `ev_ready` (R172). -/
def execDType (s : State) : Host.Outcome State Fault Refusal :=
  if s.dec.phase = .dType ∧ s.avail = true then
    match route s.cfg s.headByte s.dec.len with
    | .path p q => .next (s.enterBody p q)
    | .fail k => if s.port.evReady then .next (s.raise k s.headByte) else wait s
  else wait s

/-- `d_pos <- d_pos + 1; if d_pos == d_len then dphase <- D_CKSUM` (R137). -/
def State.advanceBody (s : State) : State :=
  { s with dec := { s.dec with pos := s.dec.pos + 1,
                               phase := if s.dec.pos + 1 = s.dec.len then .dCksum else .dBody } }

/-- `D_BODY` (R137): one body byte consumed, summed and stored. -/
def execDBody (s : State) : Host.Outcome State Fault Refusal :=
  if s.dec.phase = .dBody ∧ s.avail = true ∧ s.dec.pos < s.dec.len then
    match store s.cfg (s.popByte true).dec s.dec.pos.toNat s.headByte with
    | some d => .next { s.popByte true with dec := d }.advanceBody
    | none => .fault (.storeOffset s.dec.pos.toNat)
  else wait s

/-- What D_CKSUM does once the checksum byte is in the sum: the event of the path, or CHECKSUM_FAIL (R145, R146). -/
def State.finishFrame (s : State) : State :=
  if s.rxSumOk then (s.emit s.dec.event).toDPhase .dSync else s.raise .checksumFail s.dec.path.frameType

/-- `D_CKSUM` (R145): enabled when a byte is visible and `ev_ready` holds. -/
def execDCksum (s : State) : Host.Outcome State Fault Refusal :=
  if s.dec.phase = .dCksum ∧ s.avail = true ∧ s.port.evReady = true then .next (s.popByte true).finishFrame else wait s

/-- `d_rem <- d_rem - 1; if d_rem == 0 then dphase <- D_SYNC` (R148). -/
def State.countSkip (s : State) : State :=
  { s with dec := { s.dec with rem := s.dec.rem - 1, phase := if s.dec.rem - 1 = 0 then .dSync else .dSkip } }

/-- `D_SKIP` (R148): one byte of a frame that is not decoded is discarded. -/
def execDSkip (s : State) : Host.Outcome State Fault Refusal :=
  if s.dec.phase = .dSkip ∧ s.avail = true ∧ s.dec.rem ≠ 0 then .next (s.popByte false).countSkip else wait s

/-! ### The DECODER as an agent (R130) -/

/-- Has the DECODER a step (R130, R133)? -/
def State.decoderEnabled (s : State) : Bool :=
  s.avail &&
    match s.dec.phase with
    | .dSync | .dLenHi | .dLenLo => true
    | .dType =>
      match route s.cfg s.headByte s.dec.len with
      | .path _ _ => true
      | .fail _ => s.port.evReady
    | .dBody => decide (s.dec.pos < s.dec.len)
    | .dCksum => s.port.evReady
    | .dSkip => decide (s.dec.rem ≠ 0)

/-- The byte step that the phase register selects (R130). -/
def decoderStep (s : State) : Host.Outcome State Fault Refusal :=
  match s.dec.phase with
  | .dSync => if s.headByte = Config.start then execDSyncMarker s else execDSyncDiscard s
  | .dLenHi => execDLenHi s
  | .dLenLo => execDLenLo s
  | .dType => execDType s
  | .dBody => execDBody s
  | .dCksum => execDCksum s
  | .dSkip => execDSkip s

/-- `RUN`: "the DECODER takes steps until it has none enabled" (R76), at most `fuel` of them. -/
def runDecoder : Nat → State → Host.Outcome State Fault Refusal
  | 0, s => .next s
  | fuel + 1, s => if s.decoderEnabled then andThen (decoderStep s) (runDecoder fuel) else .next s

end Sys2Proof.Machine
end

