-- ==== Sys2Proof/Machine/EncoderPhases.lean ====
section
/-! DEFINITION. The ENCODER's steps: CMD_ACCEPT, E_START, E_LEN, E_BODY, E_CKSUM (spec/41_encode.md). A step that sends a
byte is enabled only while `tx_ready` holds (R110). -/

namespace Sys2Proof.Machine

/-- The phase register written: `pc <- target` for the encoder (R31). -/
def State.toEPhase (s : State) (p : EPhase) : State := { s with enc := { s.enc with phase := p } }

/-- `cmd_status` answered, which ends the handshake of the command on the port (R111). -/
def State.reply (s : State) (r : CmdStatus) : State :=
  { s with port := { s.port with cmds := s.port.cmds.tail, cmdStatus := some r } }

/-- `CMD_ACCEPT` (R111): enabled in E_IDLE with a command on the port. -/
def execCmdAccept (s : State) : Host.Outcome State Fault Refusal :=
  match s.port.cmds with
  | [] => wait s
  | c :: _ =>
    if s.enc.phase = .eIdle then
      if commandOversized c then .next (s.reply .rejected)
      else .next { s.reply .accepted with enc := s.enc.latch c }
    else wait s

/-- `E_START` (R112): the start marker is sent. -/
def execEStart (s : State) : Host.Outcome State Fault Refusal :=
  if s.enc.phase = .eStart ∧ s.port.txReady = true then .next ((s.sendByte Config.start).toEPhase .eLenHi) else wait s

/-- `E_LEN` (R113): E_LEN_HI sends `e_len[15:8]`; E_LEN_LO sends `e_len[7:0]` and clears the transmit sum. -/
def execELen (s : State) : Host.Outcome State Fault Refusal :=
  if s.enc.phase = .eLenHi ∧ s.port.txReady = true then .next ((s.sendByte (byteOf16 s.enc.len 0)).toEPhase .eLenLo)
  else if s.enc.phase = .eLenLo ∧ s.port.txReady = true then
    .next (((s.sendByte (byteOf16 s.enc.len 1)).clearTxSum).toEPhase .eBody)
  else wait s

/-- `e_pos <- e_pos + 1; if e_pos == e_len then ephase <- E_CKSUM` (R115). -/
def State.advanceSend (s : State) : State :=
  { s with enc := { s.enc with pos := s.enc.pos + 1,
                               phase := if s.enc.pos + 1 = s.enc.len then .eCksum else .eBody } }

/-- `E_BODY` (R115): one body byte sent and added to the transmit sum. -/
def execEBody (s : State) : Host.Outcome State Fault Refusal :=
  if s.enc.phase = .eBody ∧ s.port.txReady = true ∧ s.enc.pos < s.enc.len then
    match bodyByte s.enc s.enc.pos.toNat with
    | some b => .next ((s.sendByte b).addTxSum b).advanceSend
    | none => .fault (.bodyOffset s.enc.pos.toNat)
  else wait s

/-- `E_CKSUM` (R116): the checksum byte is sent and the ENCODER is idle again. -/
def execECksum (s : State) : Host.Outcome State Fault Refusal :=
  if s.enc.phase = .eCksum ∧ s.port.txReady = true then .next ((s.sendByte s.txChecksum).toEPhase .eIdle) else wait s

/-! ### The ENCODER as an agent -/

/-- Has the ENCODER a step? -/
def State.encoderEnabled (s : State) : Bool :=
  match s.enc.phase with
  | .eIdle => !s.port.cmds.isEmpty
  | .eBody => s.port.txReady && decide (s.enc.pos < s.enc.len)
  | .eStart | .eLenHi | .eLenLo | .eCksum => s.port.txReady

/-- The step that the phase register selects. -/
def encoderStep (s : State) : Host.Outcome State Fault Refusal :=
  match s.enc.phase with
  | .eIdle => execCmdAccept s
  | .eStart => execEStart s
  | .eLenHi | .eLenLo => execELen s
  | .eBody => execEBody s
  | .eCksum => execECksum s

/-- The ENCODER takes steps until it has none enabled, at most `fuel` of them. -/
def runEncoder : Nat → State → Host.Outcome State Fault Refusal
  | 0, s => .next s
  | fuel + 1, s => if s.encoderEnabled then andThen (encoderStep s) (runEncoder fuel) else .next s

end Sys2Proof.Machine
end

