-- ==== Sys2Proof/Machine/Frames.lean ====
section
/-! DEFINITION. The FRAME rows: a whole frame as one operation, which is the run of byte steps that the frame causes
(assumption 6). A received frame arrives byte by byte on the link; a sent frame is a command on `cmd`. The closed form of
the decoder (R152) stands here too. -/

namespace Sys2Proof.Machine

/-- More DECODER steps than the bytes of a full ring can enable: at most two for each of 255 bytes. -/
def runFuel : Nat := 512

/-- More ENCODER steps than two longest frames need: 260 for each, command acceptance and its 259 bytes included. -/
def sendFuel : Nat := 600

/-- One received byte and everything it sets off: the interrupt, SYNC, RUN, SYNC (the notation of R76). -/
def receiveByte (b : Byte) (s : State) : Host.Outcome State Fault Refusal :=
  andThen (andThen (andThen (rxInterrupt b s) (execSync true true)) (runDecoder runFuel)) (execSync true true)

/-- The bytes of a frame received one after another. -/
def receiveBytes : List Byte → State → Host.Outcome State Fault Refusal
  | [], s => .next s
  | b :: bs, s => andThen (receiveByte b s) (receiveBytes bs)

/-- A command joins the ones that wait on `cmd` (R8); one offered while `rst` is asserted is lost
(spec/93_implementation_defined.md U21). -/
def State.offer (s : State) (c : Command) : State :=
  if s.port.rst then s else { s with port := { s.port with cmds := s.port.cmds ++ [c] } }

/-- A command offered, and the ENCODER run until it has no step: `send(TxFrame)` and the encoding half of `send_at` (R76). -/
def sendCommand (c : Command) (s : State) : Host.Outcome State Fault Refusal := runEncoder sendFuel (s.offer c)

/-- `ENC_TX` (R114): an ENC_TX command is offered and its frame sent. -/
def execEncTx (id : Byte) (a64 : Addr64) (a16 : Half) (rad opt : Byte) (payload : List Byte) (s : State) :
    Host.Outcome State Fault Refusal :=
  sendCommand (.txFrame id a64 a16 rad opt payload) s

/-- `ENC_AT` (R118): an ENC_AT command is offered and its frame sent. -/
def execEncAt (id c1 c2 : Byte) (s : State) : Host.Outcome State Fault Refusal := sendCommand (.atFrame id c1 c2) s

/-- `DEC_RX` (R138): the frame's bytes arrive and the DECODER takes them. -/
def execDecRx (src : Addr64) (net : Half) (opt : Byte) (data : List Byte) (ck : Byte) (s : State) :
    Host.Outcome State Fault Refusal :=
  receiveBytes (wireFrame (bodyRx src net opt data) ck) s

/-- `DEC_ATRESP` (R140). -/
def execDecAtresp (id c1 c2 status : Byte) (data : List Byte) (ck : Byte) (s : State) :
    Host.Outcome State Fault Refusal :=
  receiveBytes (wireFrame (bodyAtresp id c1 c2 status data) ck) s

/-- `DEC_MODEM` (R142). -/
def execDecModem (status ck : Byte) (s : State) : Host.Outcome State Fault Refusal :=
  receiveBytes (wireFrame (bodyModem status) ck) s

/-- `DEC_TXSTAT` (R143). -/
def execDecTxstat (id : Byte) (net : Half) (retry delivery discovery ck : Byte) (s : State) :
    Host.Outcome State Fault Refusal :=
  receiveBytes (wireFrame (bodyTxstat id net retry delivery discovery) ck) s

/-- `DEC_SKIP` (R147, R149, R150): the failure is reported at D_TYPE and the frame is skipped by its declared length. -/
def execDecSkip (len : Half) (ty : Byte) (rest : List Byte) (s : State) : Host.Outcome State Fault Refusal :=
  receiveBytes (Config.start :: (bytes16 len ++ ty :: rest)) s

/-! ### The closed form of the decoder (R152) -/

/-- The frame event of a known type, from the `len` body bytes (R152: "event of t"). -/
def bodyEvent (p : DPath) (body : List Byte) : Event :=
  match p with
  | .rx =>
    .rxData
      (be64 (body.getD 1 0) (body.getD 2 0) (body.getD 3 0) (body.getD 4 0) (body.getD 5 0) (body.getD 6 0)
        (body.getD 7 0) (body.getD 8 0))
      (be16 (body.getD 9 0) (body.getD 10 0)) (body.getD 11 0) (body.drop 12)
  | .atresp => .atResponse (body.getD 1 0) (body.getD 4 0) (body.drop 5)
  | .modem => .modemStatus (body.getD 1 0)
  | .txstat =>
    .txStatus (body.getD 1 0) (be16 (body.getD 2 0) (body.getD 3 0)) (body.getD 4 0) (body.getD 5 0) (body.getD 6 0)
      (body.getD 5 0 != 0)

/-- `dec(S)` of R152: the events of a complete byte string and the phases in which the decoder may then be. The recursion
is on `fuel`, which the length of the string bounds. -/
def decClosed (cfg : Config) : Nat → List Byte → List Event × List DPhase
  | 0, _ => ([], [.dSync])
  | _ + 1, [] => ([], [.dSync])
  | fuel + 1, b :: rest =>
    if b ≠ Config.start then decClosed cfg fuel rest
    else
      match rest with
      | [] => ([], [.dLenHi])
      | [_] => ([], [.dLenLo])
      | hi :: lo :: t =>
        let len := be16 hi lo
        match t with
        | [] => ([], [.dType])
        | ty :: _ =>
          match route cfg ty len with
          | .fail k =>
            if t.length < len.toNat + 1 then ([k.event ty len], [.dSkip])
            else
              let r := decClosed cfg fuel (t.drop (len.toNat + 1))
              (k.event ty len :: r.1, r.2)
          | .path p _ =>
            if t.length < len.toNat + 1 then ([], [.dBody, .dCksum])
            else
              let r := decClosed cfg fuel (t.drop (len.toNat + 1))
              let e := if sumBytes (t.take (len.toNat + 1)) = Config.chkOk then bodyEvent p (t.take len.toNat)
                else .checksumFail ty len
              (e :: r.1, r.2)

/-- `dec(S)` (R152). -/
def dec (cfg : Config) (bs : List Byte) : List Event × List DPhase := decClosed cfg (bs.length + 1) bs

end Sys2Proof.Machine
end

