-- ==== Sys2Proof/Machine/Reset.lean ====
section
/-! DEFINITION. RESET, asserted while the block runs (spec/70_reset_and_hazards.md R200, R201; spec/10_state.md R21). What
R21 leaves unspecified gets free values (assumption 3). -/

namespace Sys2Proof.Machine

/-- A decode path taken from two free bits. -/
def freePath (b : BitVec 2) : DPath :=
  if b = 0 then .rx else if b = 1 then .atresp else if b = 2 then .modem else .txstat

/-- A command kind taken from a free bit. -/
def freeKind (b : BitVec 1) : EKind := if b = 0 then .tx else .atCmd

/-- The decoder after RESET: D_SYNC and a zero sum, the rest unspecified (R21). -/
def DecoderState.freeReset (rxpMax tick : Nat) : DecoderState :=
  { phase := .dSync, rxSum := 0,
    len := Config.freeBits 16 0 tick, path := freePath (Config.freeBits 2 1 tick), pos := Config.freeBits 16 2 tick,
    rem := Config.freeBits 17 3 tick, addr64 := Config.freeBits 64 4 tick, addr16 := Config.freeBits 16 5 tick,
    opts := Config.freeBits 8 6 tick, id := Config.freeBits 8 7 tick, status := Config.freeBits 8 8 tick,
    retry := Config.freeBits 8 9 tick, delivery := Config.freeBits 8 10 tick, discovery := Config.freeBits 8 11 tick,
    plen := Config.freeBits 16 12 tick, rxp := Memory.free 1024 tick rxpMax }

/-- The encoder after RESET: E_IDLE and a zero sum, the rest unspecified (R21). -/
def EncoderState.freeReset (tick : Nat) : EncoderState :=
  { phase := .eIdle, txSum := 0,
    len := Config.freeBits 16 13 tick, pos := Config.freeBits 16 14 tick, kind := freeKind (Config.freeBits 1 15 tick),
    txId := Config.freeBits 8 16 tick, txAddr64 := Config.freeBits 64 17 tick, txAddr16 := Config.freeBits 16 18 tick,
    txRadius := Config.freeBits 8 19 tick, txOpts := Config.freeBits 8 20 tick, txPlen := Config.freeBits 8 21 tick,
    txp := Memory.free 512 tick Config.payloadTxMax, atId := Config.freeBits 8 22 tick, atC1 := Config.freeBits 8 23 tick,
    atC2 := Config.freeBits 8 24 tick }

/-- `RESET` (R200, R201): both domains at once. The ring's contents, a frame being sent, a partly decoded frame and an
offered command are lost; the bytes already handed to `tx_out` stay sent and the events already delivered stay delivered.
A reset that is
held is the level of `rst` (assumption 23): it keeps what this step has set, since nothing gets in.
The parameters, the levels the surroundings drive and the turns to come are not the block's and stay. -/
def execReset (s : State) : Host.Outcome State Fault Refusal :=
  .next { s with head := 0, tail := 0, headP := 0, tailC := 0, ring := Memory.free 256 s.tick Config.ringN,
                 dec := DecoderState.freeReset s.cfg.rxpMax s.tick, enc := EncoderState.freeReset s.tick,
                 port := { s.port with cmds := [], cmdStatus := none, ret := none }, tick := s.tick + 1 }

end Sys2Proof.Machine
end

