-- ==== Sys2Proof/Machine/Dispatch.lean ====
section
/-! DEFINITION. The meaning of every operation: one arm a constructor. -/

namespace Sys2Proof.Machine

def exec (i : Instr) (s : State) : Host.Outcome State Fault Refusal :=
  match i with
  | .encTx id a64 a16 rad opt payload => Sys2Proof.Machine.execEncTx id a64 a16 rad opt payload s
  | .encAt id c1 c2 => Sys2Proof.Machine.execEncAt id c1 c2 s
  | .decRx src net opt data ck => Sys2Proof.Machine.execDecRx src net opt data ck s
  | .decAtresp id c1 c2 status data ck => Sys2Proof.Machine.execDecAtresp id c1 c2 status data ck s
  | .decModem status ck => Sys2Proof.Machine.execDecModem status ck s
  | .decTxstat id net retry delivery discovery ck => Sys2Proof.Machine.execDecTxstat id net retry delivery discovery ck s
  | .decSkip len ty rest => Sys2Proof.Machine.execDecSkip len ty rest s
  | .push b => Sys2Proof.Machine.execPush b s
  | .pushDrop b => Sys2Proof.Machine.execPushDrop b s
  | .pop feed => Sys2Proof.Machine.execPop feed s
  | .peek => Sys2Proof.Machine.execPeek s
  | .available => Sys2Proof.Machine.execAvailable s
  | .sync tailToC headToP => Sys2Proof.Machine.execSync tailToC headToP s
  | .dSyncDiscard => Sys2Proof.Machine.execDSyncDiscard s
  | .dSyncMarker => Sys2Proof.Machine.execDSyncMarker s
  | .dLenHi => Sys2Proof.Machine.execDLenHi s
  | .dLenLo => Sys2Proof.Machine.execDLenLo s
  | .dType => Sys2Proof.Machine.execDType s
  | .dBody => Sys2Proof.Machine.execDBody s
  | .dCksum => Sys2Proof.Machine.execDCksum s
  | .dSkip => Sys2Proof.Machine.execDSkip s
  | .cmdAccept => Sys2Proof.Machine.execCmdAccept s
  | .eStart => Sys2Proof.Machine.execEStart s
  | .eLen => Sys2Proof.Machine.execELen s
  | .eBody => Sys2Proof.Machine.execEBody s
  | .eCksum => Sys2Proof.Machine.execECksum s
  | .reset => Sys2Proof.Machine.execReset s

end Sys2Proof.Machine
end

