-- ==== Sys2Proof/Machine/Fetch.lean ====
section
/-! DEFINITION. How the next operation is found: the next turn, the operation a turn selects (R75: by a port, by a phase
register, or by a frame's bytes), and what a turn of the surroundings does. Step.lean only calls these. -/

namespace Sys2Proof.Machine

/-- The next turn and the state without it: the first one listed, or a free one (assumption 2). -/
def fetchTurn (s : State) : Turn × State :=
  match s.sched with
  | t :: rest => (t, { s with sched := rest })
  | [] => (Config.freeTurn s.tick, { s with tick := s.tick + 1 })

/-- The operation that the decoder's phase register selects; in D_SYNC the byte at `head` decides (R131, R132). -/
def decoderInstr (s : State) : Instr :=
  match s.dec.phase with
  | .dSync => if s.headByte = Config.start then .dSyncMarker else .dSyncDiscard
  | .dLenHi => .dLenHi
  | .dLenLo => .dLenLo
  | .dType => .dType
  | .dBody => .dBody
  | .dCksum => .dCksum
  | .dSkip => .dSkip

/-- The operation that the encoder's phase register selects. -/
def encoderInstr (s : State) : Instr :=
  match s.enc.phase with
  | .eIdle => .cmdAccept
  | .eStart => .eStart
  | .eLenHi | .eLenLo => .eLen
  | .eBody => .eBody
  | .eCksum => .eCksum

/-- Does a SYNC step do `tail_c <- tail` (R98)? -/
def copiesTail : SyncCopies → Bool
  | .tailOnly | .both => true
  | .headOnly => false

/-- Does a SYNC step do `head_p <- head` (R98)? -/
def copiesHead : SyncCopies → Bool
  | .headOnly | .both => true
  | .tailOnly => false

/-- The SYNC row that a step of the SYNC agent runs: never the one that does neither assignment. -/
def syncInstr (copies : SyncCopies) : Instr := .sync (copiesTail copies) (copiesHead copies)

/-- The operation a turn selects, with the state it runs in; `none` for a turn of the surroundings. Bytes behind the first
frame of a `frame` turn stay to come. -/
def fetchInstr (t : Turn) (s : State) : Option (Instr × State) :=
  match t with
  | .rx b => if s.port.rst then none else some (if s.fullP then .pushDrop b else .push b, s)
  | .decoder => some (decoderInstr s, s)
  | .encoder => some (encoderInstr s, s)
  | .sync copies => some (syncInstr copies, s)
  | .pop feed => some (.pop feed, s)
  | .peek => some (.peek, s)
  | .sample => some (.available, s)
  | .reset => some (.reset, s)
  | .rst true => some (.reset, { s with port := { s.port with rst := true } })
  | .rst false => none
  | .frame dir bytes =>
    match decode s.cfg dir bytes with
    | .ok (i, []) => some (i, s)
    | .ok (i, rest) => some (i, { s with sched := .frame dir rest :: s.sched })
    | .error _ => none
  | .command _ => none
  | .txReady _ => none
  | .evReady _ => none

/-- What a turn without an operation does: the surroundings drive a port. Bytes on the link that are no whole frame
arrive all the same (assumption 18); a byte strobed in reset is lost (R174, R201); bytes that are no frame the host can ask for change nothing. -/
def surroundings (t : Turn) (s : State) : Host.Outcome State Fault Refusal :=
  match t with
  | .command c => .next (s.offer c)
  | .txReady level => .next { s with port := { s.port with txReady := level } }
  | .evReady level => .next { s with port := { s.port with evReady := level } }
  | .frame .received bytes => receiveBytes bytes s
  | .frame .sent _ => .next s
  | .rx _ => .next s
  | .decoder => .next s
  | .encoder => .next s
  | .sync _ => .next s
  | .pop _ => .next s
  | .peek => .next s
  | .sample => .next s
  | .reset => .next s
  | .rst level => .next { s with port := { s.port with rst := level } }

/-- `s` with `t` as its next turn, before all turns to come. -/
def State.present (s : State) (t : Turn) : State := { s with sched := t :: s.sched }

/-- The turn that presents a table word's operation: the whole frame, in its direction. -/
def tableTurn (nbits w : Nat) : Turn := .frame (tableDirection nbits w) (tableFrame nbits w)

end Sys2Proof.Machine
end

