-- ==== Sys2Proof/Machine/Step.lean ====
section
/-! DEFINITION. One step of the machine: take the next turn, find the operation it selects, run it. -/

namespace Sys2Proof.Machine

/-- One step (R5, R7). -/
def step (s : State) : Host.Outcome State Fault Refusal :=
  match fetchInstr (fetchTurn s).1 (fetchTurn s).2 with
  | some p => exec p.1 p.2
  | none => surroundings (fetchTurn s).1 (fetchTurn s).2

/-- `s` with the operation of a table word as its next turn. -/
def State.withFetchWord (s : State) (nbits w : Nat) : State := s.present (tableTurn nbits w)

end Sys2Proof.Machine
end

