-- ==== Sys2Proof/Safety.lean ====
section
/-! DEFINITION. What a good state is, in the terms the statements use: the invariants of spec/10_state.md R23 and of the
phase registers, the state at rest (R203), the unread bytes, and runs of ring operations. -/

namespace Sys2Proof.Machine

/-! ### Invariants -/

/-- R23 (1) to (3): at most 255 unread bytes, the decoder never sees more bytes than were pushed, the producer never sees
fewer than there are. -/
def State.RingInv (s : State) : Prop :=
  s.ring.wf Config.ringN = true ∧ s.count ≤ 255 ∧ (s.tailView - s.head).toNat ≤ s.count ∧
    (s.head - s.headView).toNat + s.count ≤ 255

/-- The chosen path has a Length of its legal set and the payload length that goes with it (R72, R136). -/
def DecoderState.PathInv (cfg : Config) (d : DecoderState) : Prop :=
  match d.path with
  | .rx => 12 ≤ d.len.toNat ∧ d.plen.toNat = d.len.toNat - 12 ∧ d.plen.toNat ≤ cfg.rxpMax
  | .atresp => 5 ≤ d.len.toNat ∧ d.plen.toNat = d.len.toNat - 5 ∧ d.plen.toNat ≤ cfg.rxpMax
  | .modem => d.len.toNat = 2
  | .txstat => d.len.toNat = 7

/-- What the decoder's phase promises of its registers (R16, R137, R148). -/
def DecoderState.Inv (cfg : Config) (d : DecoderState) : Prop :=
  d.rxp.wf cfg.rxpMax = true ∧
    match d.phase with
    | .dSync | .dLenHi | .dLenLo | .dType => True
    | .dBody => d.pos.toNat < d.len.toNat ∧ d.PathInv cfg
    | .dCksum => d.pos = d.len ∧ d.PathInv cfg
    | .dSkip => 1 ≤ d.rem.toNat ∧ d.rem.toNat ≤ 65536

/-- The Length that goes with the command in progress (R17, R111). -/
def EncoderState.LenInv (e : EncoderState) : Prop :=
  match e.kind with
  | .tx => e.txPlen.toNat ≤ 241 ∧ e.len.toNat = e.txPlen.toNat + 14
  | .atCmd => e.len.toNat = 4

/-- What the encoder's phase promises of its registers (R17, R113, R115). -/
def EncoderState.Inv (e : EncoderState) : Prop :=
  e.txp.wf Config.payloadTxMax = true ∧
    match e.phase with
    | .eIdle => True
    | .eStart | .eLenHi | .eLenLo => e.pos = 0 ∧ e.LenInv
    | .eBody => e.pos.toNat < e.len.toNat ∧ e.LenInv
    | .eCksum => e.pos = e.len ∧ e.LenInv

/-- While `rst` is held the block stays at the reset values of R21, with no command on `cmd` (R200, R201). -/
def State.HeldInReset (s : State) : Prop :=
  s.port.rst = true →
    s.head = 0 ∧ s.tail = 0 ∧ s.headP = 0 ∧ s.tailC = 0 ∧ s.dec.phase = .dSync ∧ s.enc.phase = .eIdle ∧
      s.dec.rxSum = 0 ∧ s.enc.txSum = 0 ∧ s.port.cmds = []

/-- The invariant of the machine. -/
def State.Inv (s : State) : Prop := s.RingInv ∧ s.dec.Inv s.cfg ∧ s.enc.Inv ∧ s.HeldInReset

/-! ### Rest and the unread bytes -/

/-- The four indices agree: nothing unread, both views current. -/
def State.drained (s : State) : Prop := s.tail = s.head ∧ s.tailView = s.tail ∧ s.headView = s.head

/-- The block is at rest (R203): no byte unread, both views current, D_SYNC, E_IDLE, and nothing offered on `cmd`. What
the transport offers on `rx_in` is a turn and no part of the block. -/
def State.atRest (s : State) : Prop :=
  s.drained ∧ s.dec.phase = .dSync ∧ s.enc.phase = .eIdle ∧ s.port.cmds = []

/-- The unread bytes, oldest first: `ring[head .. tail−1]` (R11, R23). -/
def State.unread (s : State) : List Byte :=
  (List.range s.count).map fun i => s.ring.read (s.head + BitVec.ofNat 8 i).toNat

/-! ### Runs of ring operations (R47, R100) -/

/-- A byte offered on `rx_in` outside reset, a POP attempted, or a SYNC step. -/
inductive RingOp where
  | offer (b : Byte)
  | pop (feed : Bool)
  | sync (copies : SyncCopies)
  deriving DecidableEq, Repr

/-- The operation of the table that a ring operation runs. -/
def RingOp.instr (s : State) : RingOp → Instr
  | .offer b => if s.fullP then .pushDrop b else .push b
  | .pop feed => .pop feed
  | .sync copies => syncInstr copies

/-- The byte a ring operation adds to the accepted ones. -/
def RingOp.accepted (s : State) : RingOp → List Byte
  | .offer b => if s.fullP then [] else [b]
  | .pop _ => []
  | .sync _ => []

/-- The byte a ring operation pops. -/
def RingOp.popped (s : State) : RingOp → List Byte
  | .offer _ => []
  | .pop _ => if s.avail then [s.headByte] else []
  | .sync _ => []

/-- A run of ring operations: `ringRun ops s acc out t` says that from `s` the operations accept the bytes `acc`, pop the
bytes `out`, and end in `t`. -/
def ringRun : List RingOp → State → List Byte → List Byte → State → Prop
  | [], s, acc, out, t => acc = [] ∧ out = [] ∧ t = s
  | op :: ops, s, acc, out, t =>
    ∃ u acc' out', exec (op.instr s) s = .next u ∧ acc = op.accepted s ++ acc' ∧ out = op.popped s ++ out' ∧
      ringRun ops u acc' out' t

/-! ### What a whole frame leaves behind -/

/-- From `s` to `t` a received frame of `n` wire bytes came in and was taken: the ring is drained again, `head` is `n`
further, the decoder is back in D_SYNC, the one event `e` was delivered, the ring's other slots read as before, and
nothing else changed but the decoder's registers and the indices. -/
def State.arrival (s t : State) (n : Nat) (e : Event) : Prop :=
  t.drained ∧ t.head = s.head + BitVec.ofNat 8 n ∧ t.dec.phase = .dSync ∧
    t.port = { s.port with events := s.port.events ++ [e] } ∧ t.enc = s.enc ∧ t.cfg = s.cfg ∧ t.sched = s.sched ∧
    t.tick = s.tick ∧
    ∀ k, n ≤ k → k < 256 →
      t.ring.read (s.head + BitVec.ofNat 8 k).toNat = s.ring.read (s.head + BitVec.ofNat 8 k).toNat

/-- The decoder waits for a frame with nothing unread, outside reset, and the host is ready for an event. -/
def State.listening (s : State) : Prop :=
  s.RingInv ∧ s.drained ∧ s.dec.phase = .dSync ∧ s.port.evReady = true ∧ s.port.rst = false

/-- The encoder waits for a command with none offered, outside reset, and the transport is ready for a byte. -/
def State.idleSender (s : State) : Prop :=
  s.enc.phase = .eIdle ∧ s.port.cmds = [] ∧ s.port.txReady = true ∧ s.port.rst = false ∧ s.enc.txp.wf Config.payloadTxMax = true

/-- A turn that is one byte step of an agent, or an offer on `cmd`: everything but a whole frame (R7). -/
def byteTurn : Turn → Bool
  | .rx _ => true
  | .decoder => true
  | .encoder => true
  | .sync _ => true
  | .command _ => true
  | .pop _ => false
  | .peek => false
  | .sample => false
  | .reset => false
  | .rst _ => false
  | .txReady _ => false
  | .evReady _ => false
  | .frame _ _ => false

/-! ### Endless runs and weak fairness (R7, R98, R110, R172) -/

/-- An endless run: at moment `n` the machine is in `states n` and takes the turn `turns n`. Any sequence of turns may be
the schedule (R5). -/
def Run (turns : Nat → Turn) (states : Nat → State) : Prop :=
  ∀ n, step ((states n).present (turns n)) = .next (states (n + 1))

/-- `p` holds again and again in an endless run: "infinitely often". -/
def InfinitelyOften (p : Nat → Prop) : Prop := ∀ n, ∃ m, n ≤ m ∧ p m

/-- A SYNC agent's turn that does `tail_c <- tail`. -/
def syncsTail (t : Turn) : Prop := ∃ copies, t = .sync copies ∧ copiesTail copies = true

/-- A SYNC agent's turn that does `head_p <- head`. -/
def syncsHead (t : Turn) : Prop := ∃ copies, t = .sync copies ∧ copiesHead copies = true

/-- An endless run that is weakly fair: the spec's only liveness assumption (R7). Each of SYNC's two assignments happens
infinitely often while there is a SYNC agent (R98, R99); an agent that stays enabled takes its turn; the transport and the
host raise `tx_ready` and `ev_ready` again and again (R110, R214). The PRODUCER's step is the `rx` turn itself. -/
structure FairRun (turns : Nat → Turn) (states : Nat → State) : Prop where
  run : Run turns states
  syncTail : InfinitelyOften fun m => (states m).cfg.cdc = .synchronised → syncsTail (turns m)
  syncHead : InfinitelyOften fun m => (states m).cfg.cdc = .synchronised → syncsHead (turns m)
  decoder : InfinitelyOften fun m => turns m = .decoder ∨ (states m).decoderEnabled = false
  encoder : InfinitelyOften fun m => turns m = .encoder ∨ (states m).encoderEnabled = false
  txReady : InfinitelyOften fun m => (states m).port.txReady = true
  evReady : InfinitelyOften fun m => (states m).port.evReady = true

/-! ### The two modes of the crossing -/

/-- The synchronised machine that an atomic one stands for: the views are registers and equal the indices (R99). -/
def State.asSynchronised (s : State) : State :=
  { s with cfg := { s.cfg with cdc := .synchronised }, tailC := s.tail, headP := s.head }

end Sys2Proof.Machine
end

