-- ==== Sys2Proof/Certificates/Slice0/Obligations.lean ====
section
/-! DEFINITION. The statements about the block, for the provers. Each docstring names the rules of spec/ it formalises. -/

open Sys2Proof Sys2Proof.Machine

/-! ### The ring -/

/-- R91: PUSH writes the received byte at `tail` and advances `tail`; it touches nothing else. The premise on the ring is
the canonical form of the store (assumption 4). -/
def Obligations.PushStoresTheByteAtTail : Prop :=
  ∀ (b : Byte) (s : State), s.ring.wf 256 = true → s.fullP = false →
    ∃ t, exec (.push b) s = .next t ∧
      (∀ a, t.ring.read a = if a = s.tail.toNat then b else s.ring.read a) ∧
      t = { s with ring := t.ring, tail := s.tail + 1 }

/-- R92: on a full ring the byte is dropped, `rx_drop` pulses, and nothing else happens.
That the trace of the pulse records the byte is the model's choice (assumption 11). -/
def Obligations.PushDropDiscardsTheByte : Prop :=
  ∀ (b : Byte) (s : State), s.fullP = true →
    exec (.pushDrop b) s = .next { s with port := { s.port with rxDrops := s.port.rxDrops ++ [b] } }

/-- R93: POP returns the byte at `head`, advances `head` and feeds the receive sum only when told to; without a visible
byte it is not enabled and the DECODER waits. The field that shows the returned value is the model's own (assumption 13),
and that a step which is not enabled leaves the state is the model's reading (assumption 7). -/
def Obligations.PopTakesTheOldestByte : Prop :=
  ∀ (feed : Bool) (s : State),
    (s.head ≠ s.tailView →
      exec (.pop feed) s =
        .next { s with
          head := s.head + 1,
          dec := { s.dec with
            rxSum := if feed then s.dec.rxSum + s.ring.read s.head.toNat else s.dec.rxSum },
          port := { s.port with ret := some (.byte (s.ring.read s.head.toNat)) } }) ∧
    (s.head = s.tailView → exec (.pop feed) s = .next s)

/-- R94: PEEK returns the byte at `head` and leaves `head` and `rx_sum` unchanged; without a visible byte the DECODER
waits. The field that shows the returned value is the model's own (assumption 13), and that a step which is not enabled
leaves the state is the model's reading (assumption 7). -/
def Obligations.PeekLeavesTheByte : Prop :=
  ∀ s : State,
    (s.head ≠ s.tailView →
      exec .peek s = .next { s with port := { s.port with ret := some (.byte (s.ring.read s.head.toNat)) } }) ∧
    (s.head = s.tailView → exec .peek s = .next s)

/-- R95: AVAILABLE answers whether `head` differs from the decoder's view of `tail`, in every state.
The field that shows the returned value is the model's own (assumption 13). -/
def Obligations.AvailableAnswersTheView : Prop :=
  ∀ s : State, exec .available s =
    .next { s with port := { s.port with ret := some (.flag (s.head != s.tailView)) } }

/-- R98: SYNC copies `tail` to `tail_c`, `head` to `head_p`, or both, and writes nothing else. -/
def Obligations.SyncRefreshesTheViews : Prop :=
  ∀ (a b : Bool) (s : State), (a || b) = true → s.cfg.cdc = .synchronised →
    exec (.sync a b) s =
      .next { s with tailC := if a then s.tail else s.tailC, headP := if b then s.head else s.headP }

/-- R99: with `CDC_MODE = atomic` the views read as the indices, and SYNC has nothing to refresh (assumption 17). -/
def Obligations.AtomicViewsAreTheIndices : Prop :=
  ∀ (a b : Bool) (s : State), s.cfg.cdc = .atomic →
    s.tailView = s.tail ∧ s.headView = s.head ∧ exec (.sync a b) s = .next s

/-- R99: what one operation does on an atomic machine, it does on the synchronised machine when a SYNC step follows. -/
def Obligations.AtomicOperationIsSynchronisedThenSync : Prop :=
  ∀ (i : Instr) (s t : State), s.cfg.cdc = .atomic → exec i s = .next t →
    ∃ u, exec i s.asSynchronised = .next u ∧ exec (.sync true true) u = .next t.asSynchronised

/-- R47, R100: in every run of offered bytes, POPs and SYNC steps the bytes popped and the bytes still unread are, in
order, the bytes unread at the start and then the bytes accepted; and at most 255 are ever unread. -/
def Obligations.FifoLawOfTheRing : Prop :=
  ∀ (ops : List RingOp) (s t : State) (acc out : List Byte), s.RingInv → ringRun ops s acc out t →
    out ++ t.unread = s.unread ++ acc ∧ t.unread.length ≤ 255

/-- R95: "the answer true stays true until the DECODER itself pops", across the receive interrupt, SYNC and every
ENCODER step. -/
def Obligations.AvailStaysTrueUntilPopped : Prop :=
  ∀ (i : Instr) (s t : State), s.RingInv → s.avail = true →
    (∃ b, i = .push b ∨ i = .pushDrop b) ∨ (∃ a b, i = .sync a b) ∨ i = .peek ∨ i = .available ∨ i = .cmdAccept ∨
      i = .eStart ∨ i = .eLen ∨ i = .eBody ∨ i = .eCksum →
    exec i s = .next t → t.avail = true

/-- R52 (2): a byte seen by PEEK is the byte the next POP returns, whatever bytes the PRODUCER is offered and whatever SYNC
does in between, with no POP among it. The field that shows the returned value is the model's own (assumption 13). -/
def Obligations.PeekedByteIsTheNextPopped : Prop :=
  ∀ (feed : Bool) (ops : List RingOp) (s p t : State) (acc out : List Byte), s.RingInv → s.avail = true →
    exec .peek s = .next p → (∀ op ∈ ops, ∀ f, op ≠ .pop f) → ringRun ops p acc out t →
    ∃ v b, exec (.pop feed) t = .next v ∧ p.port.ret = some (.byte b) ∧ v.port.ret = some (.byte b) ∧
      v.head = s.head + 1

/-! ### Invariants of the machine -/

/-- The state right after reset meets the invariant. -/
def Obligations.ResetMeetsTheInvariant : Prop := State.reset.Inv

/-- R23, R200, R201: every step keeps the invariant: the ring never holds more than 255 unread bytes, the views never
lead, the phase registers keep what their rules promise, and while `rst` is held the block stays at its reset values. That
`rst` is a held level is the model's choice (assumption 23). -/
def Obligations.EveryStepKeepsTheInvariant : Prop :=
  ∀ s t : State, s.Inv → step s = .next t → t.Inv

/-- R173: no step stops the machine: nothing is a fault or a refusal, whatever bytes and commands come. -/
def Obligations.NothingIsFatal : Prop :=
  ∀ s : State, s.Inv → ∃ t, step s = .next t

/-- R6, R172, R201: no step changes the parameters, and what was sent, delivered or dropped stays so, in order. That
the outputs are traces which only grow and which RESET keeps is the model's choice (assumption 11). -/
def Obligations.OutputsOnlyGrow : Prop :=
  ∀ s t : State, step s = .next t →
    t.cfg = s.cfg ∧ s.port.txOut <+: t.port.txOut ∧ s.port.events <+: t.port.events ∧ s.port.rxDrops <+: t.port.rxDrops

/-- R203: at rest neither the DECODER nor the ENCODER has a step, and SYNC's steps change nothing.
That a step which is not enabled leaves the state is the model's reading (assumption 7, R31). -/
def Obligations.AtRestNothingMoves : Prop :=
  ∀ (a b : Bool) (s : State), s.atRest →
    exec (decoderInstr s) s = .next s ∧ exec (encoderInstr s) s = .next s ∧ exec (.sync a b) s = .next s

/-! ### Who writes what (R22) -/

/-- R22: the interrupt context writes only `tail` and the slot it indexes; SYNC writes only the views. -/
def Obligations.ProducerAndSyncWriteOnlyTheirOwn : Prop :=
  ∀ (b : Byte) (x y : Bool) (s t : State), s.ring.wf 256 = true →
    (exec (.push b) s = .next t ∨ exec (.pushDrop b) s = .next t →
      t.head = s.head ∧ t.headP = s.headP ∧ t.tailC = s.tailC ∧ t.dec = s.dec ∧ t.enc = s.enc ∧
        ∀ a, a ≠ s.tail.toNat → t.ring.read a = s.ring.read a) ∧
    (exec (.sync x y) s = .next t →
      t.head = s.head ∧ t.tail = s.tail ∧ t.ring = s.ring ∧ t.dec = s.dec ∧ t.enc = s.enc ∧ t.port = s.port)

/-- R22: the DECODER's steps write `head`, the receive sum and its own registers, and deliver events; they never touch the
ring, `tail`, the views or the ENCODER. -/
def Obligations.DecoderStepsWriteOnlyTheirOwn : Prop :=
  ∀ (i : Instr) (s t : State),
    (∃ feed, i = .pop feed) ∨ i = .peek ∨ i = .available ∨ i = .dSyncDiscard ∨ i = .dSyncMarker ∨ i = .dLenHi ∨
      i = .dLenLo ∨ i = .dType ∨ i = .dBody ∨ i = .dCksum ∨ i = .dSkip →
    exec i s = .next t →
    t = { s with head := t.head, dec := t.dec, port := { s.port with events := t.port.events, ret := t.port.ret } }

/-- R22, R182: the ENCODER's steps write only its own registers and its ports; the ring, the indices, the views and the
DECODER are untouched. -/
def Obligations.EncoderStepsWriteOnlyTheirOwn : Prop :=
  ∀ (i : Instr) (s t : State),
    i = .cmdAccept ∨ i = .eStart ∨ i = .eLen ∨ i = .eBody ∨ i = .eCksum →
    exec i s = .next t →
    t = { s with enc := t.enc, port := { s.port with txOut := t.port.txOut, cmds := t.port.cmds, cmdStatus := t.port.cmdStatus } }

/-! ### The DECODER's byte steps -/

/-- R131, R132: in D_SYNC a byte that is not 0x7E is thrown away, and the marker is consumed and leads to D_LEN_HI. -/
def Obligations.SyncPhaseSeeksTheMarker : Prop :=
  ∀ s : State, s.dec.phase = .dSync → s.avail = true →
    (s.ring.read s.head.toNat ≠ 0x7E → exec .dSyncDiscard s = .next { s with head := s.head + 1 }) ∧
    (s.ring.read s.head.toNat = 0x7E →
      exec .dSyncMarker s = .next { s with head := s.head + 1, dec := { s.dec with phase := .dLenHi } })

/-- R134, R135: each length byte is consumed without feeding the sum; the second one clears the sum. -/
def Obligations.LengthStepsConsumeTheirByte : Prop :=
  ∀ s : State, s.avail = true →
    (s.dec.phase = .dLenHi →
      exec .dLenHi s =
        .next { s with
          head := s.head + 1,
          dec := { s.dec with len := BitVec.ofNat 16 (256 * (s.ring.read s.head.toNat).toNat), phase := .dLenLo } }) ∧
    (s.dec.phase = .dLenLo →
      exec .dLenLo s =
        .next { s with
          head := s.head + 1,
          dec := { s.dec with
            len := s.dec.len + BitVec.ofNat 16 (s.ring.read s.head.toNat).toNat, pos := 0, rxSum := 0, phase := .dType } })

/-- R134, R135: the two length bytes make `d_len = 256·hi + lo`, big-endian. -/
def Obligations.LengthIsBigEndian : Prop :=
  ∀ s : State, s.dec.phase = .dLenHi → 2 ≤ (s.tailView - s.head).toNat →
    ∃ t, andThen (exec .dLenHi s) (exec .dLenLo) = .next t ∧
      t.dec.len.toNat = 256 * (s.ring.read s.head.toNat).toNat + (s.ring.read (s.head + 1).toNat).toNat ∧
      t.dec.phase = .dType ∧ t.head = s.head + 2 ∧ t.dec.rxSum = 0 ∧ t.dec.pos = 0

/-- R136, R72: D_TYPE routes a known frame type with a legal Length to its decode path, and does not consume the byte. -/
def Obligations.TypeStepRoutesLegalFrames : Prop :=
  ∀ s : State, s.dec.phase = .dType → s.avail = true →
    (s.ring.read s.head.toNat = 0x90 → 12 ≤ s.dec.len.toNat → s.dec.len.toNat - 12 ≤ s.cfg.rxpMax →
      exec .dType s =
        .next { s with dec := { s.dec with path := .rx, plen := s.dec.len - 12, pos := 0, phase := .dBody } }) ∧
    (s.ring.read s.head.toNat = 0x88 → 5 ≤ s.dec.len.toNat → s.dec.len.toNat - 5 ≤ s.cfg.rxpMax →
      exec .dType s =
        .next { s with dec := { s.dec with path := .atresp, plen := s.dec.len - 5, pos := 0, phase := .dBody } }) ∧
    (s.ring.read s.head.toNat = 0x8A → s.dec.len = 2 →
      exec .dType s = .next { s with dec := { s.dec with path := .modem, plen := 0, pos := 0, phase := .dBody } }) ∧
    (s.ring.read s.head.toNat = 0x8B → s.dec.len = 7 →
      exec .dType s = .next { s with dec := { s.dec with path := .txstat, plen := 0, pos := 0, phase := .dBody } })

/-- R136, R147, R149, R150: every other frame is reported at D_TYPE, UNKNOWN_TYPE before BAD_LENGTH before OVERSIZE, and
skipped by its declared length: `d_rem = d_len + 1`. The byte is not consumed. -/
def Obligations.TypeStepReportsAndSkips : Prop :=
  ∀ (s : State) (ty : Byte) (n : Nat) (e : Event), s.dec.phase = .dType → s.avail = true → s.port.evReady = true →
    ty = s.ring.read s.head.toNat → n = s.dec.len.toNat →
    (ty ≠ 0x90 ∧ ty ≠ 0x88 ∧ ty ≠ 0x8A ∧ ty ≠ 0x8B ∧ e = .unknownType ty s.dec.len ∨
      (ty = 0x90 ∧ n < 12 ∨ ty = 0x88 ∧ n < 5 ∨ ty = 0x8A ∧ n ≠ 2 ∨ ty = 0x8B ∧ n ≠ 7) ∧ e = .badLength ty s.dec.len ∨
      (ty = 0x90 ∧ 12 ≤ n ∧ s.cfg.rxpMax < n - 12 ∨ ty = 0x88 ∧ 5 ≤ n ∧ s.cfg.rxpMax < n - 5) ∧
        e = .oversize ty s.dec.len) →
    ∃ t, exec .dType s = .next t ∧ t.dec.rem.toNat = n + 1 ∧
      t = { s with
        port := { s.port with events := s.port.events ++ [e] },
        dec := { s.dec with phase := .dSkip, rem := t.dec.rem } }

/-- R172: a DECODER step that delivers an event holds while `ev_ready` is low: nothing is lost and nothing moves.
That a step which is not enabled leaves the state is the model's reading (assumption 7, R31). -/
def Obligations.ReportsWaitForTheHost : Prop :=
  ∀ s : State, s.port.evReady = false →
    exec .dCksum s = .next s ∧
    (decodable s.cfg (s.ring.read s.head.toNat) s.dec.len.toNat = false → exec .dType s = .next s)

/-- R71, R136: the header row that a received header selects is the path D_TYPE routes to, and DEC_SKIP exactly where
D_TYPE reports a failure. -/
def Obligations.HeaderRowsAgreeWithRouting : Prop :=
  ∀ (cfg : Config) (hi lo ty : Byte),
    rowOf cfg .received (headerWord 0x7E hi lo ty) =
      match route cfg ty (be16 hi lo) with
      | .path .rx _ => some .decRx
      | .path .atresp _ => some .decAtresp
      | .path .modem _ => some .decModem
      | .path .txstat _ => some .decTxstat
      | .fail _ => some .decSkip

/-- R137, R138: a body byte of a 0x90 frame is consumed, summed, and stored by its offset: type, address, network address,
options, payload. -/
def Obligations.BodyStepStoresRxFields : Prop :=
  ∀ (s : State) (b : Byte) (k : Nat), s.dec.phase = .dBody → s.dec.path = .rx → s.avail = true → s.dec.pos < s.dec.len →
    s.dec.rxp.wf s.cfg.rxpMax = true → b = s.ring.read s.head.toNat → k = s.dec.pos.toNat → k < s.cfg.rxpMax + 12 →
    ∃ t, exec .dBody s = .next t ∧
      (∀ i, t.dec.rxp.read i = if 12 ≤ k ∧ i = k - 12 then b else s.dec.rxp.read i) ∧
      t = { s with
        head := s.head + 1,
        dec := { s.dec with
          rxSum := s.dec.rxSum + b, pos := s.dec.pos + 1,
          phase := if k + 1 = s.dec.len.toNat then .dCksum else .dBody,
          addr64 := if 1 ≤ k ∧ k ≤ 8 then BitVec.ofNat 64 (s.dec.addr64.toNat * 256 % 2 ^ 64 + b.toNat) else s.dec.addr64,
          addr16 := if k = 9 ∨ k = 10 then BitVec.ofNat 16 (s.dec.addr16.toNat * 256 % 2 ^ 16 + b.toNat) else s.dec.addr16,
          opts := if k = 11 then b else s.dec.opts, rxp := t.dec.rxp } }

/-- R137, R140: a body byte of a 0x88 frame: frame id, two discarded letters that are still summed, status, data. -/
def Obligations.BodyStepStoresAtResponseFields : Prop :=
  ∀ (s : State) (b : Byte) (k : Nat), s.dec.phase = .dBody → s.dec.path = .atresp → s.avail = true →
    s.dec.pos < s.dec.len → s.dec.rxp.wf s.cfg.rxpMax = true → b = s.ring.read s.head.toNat → k = s.dec.pos.toNat →
    k < s.cfg.rxpMax + 5 →
    ∃ t, exec .dBody s = .next t ∧
      (∀ i, t.dec.rxp.read i = if 5 ≤ k ∧ i = k - 5 then b else s.dec.rxp.read i) ∧
      t = { s with
        head := s.head + 1,
        dec := { s.dec with
          rxSum := s.dec.rxSum + b, pos := s.dec.pos + 1,
          phase := if k + 1 = s.dec.len.toNat then .dCksum else .dBody,
          id := if k = 1 then b else s.dec.id, status := if k = 4 then b else s.dec.status, rxp := t.dec.rxp } }

/-- R137, R142, R143: a body byte of a 0x8A frame (the status) and of a 0x8B frame (id, address, retry, delivery,
discovery). -/
def Obligations.BodyStepStoresStatusFields : Prop :=
  ∀ (s : State) (b : Byte) (k : Nat), s.dec.phase = .dBody → s.avail = true → s.dec.pos < s.dec.len →
    b = s.ring.read s.head.toNat → k = s.dec.pos.toNat →
    (s.dec.path = .modem → k ≤ 1 →
      exec .dBody s =
        .next { s with
          head := s.head + 1,
          dec := { s.dec with
            rxSum := s.dec.rxSum + b, pos := s.dec.pos + 1,
            phase := if k + 1 = s.dec.len.toNat then .dCksum else .dBody,
            status := if k = 1 then b else s.dec.status } }) ∧
    (s.dec.path = .txstat → k ≤ 6 →
      exec .dBody s =
        .next { s with
          head := s.head + 1,
          dec := { s.dec with
            rxSum := s.dec.rxSum + b, pos := s.dec.pos + 1,
            phase := if k + 1 = s.dec.len.toNat then .dCksum else .dBody,
            id := if k = 1 then b else s.dec.id,
            addr16 := if k = 2 ∨ k = 3 then BitVec.ofNat 16 (s.dec.addr16.toNat * 256 % 2 ^ 16 + b.toNat) else s.dec.addr16,
            retry := if k = 4 then b else s.dec.retry, delivery := if k = 5 then b else s.dec.delivery,
            discovery := if k = 6 then b else s.dec.discovery } })

/-- R69: eight bytes shifted in make the 64-bit field and two make the 16-bit field, most significant first, whatever the
register held before; splitting is the inverse. -/
def Obligations.FieldsAreMostSignificantFirst : Prop :=
  (∀ (r : Addr64) (v : Addr64), (bytes64 v).foldl shiftIn64 r = v) ∧
  (∀ (r : Half) (v : Half), (bytes16 v).foldl shiftIn16 r = v) ∧
  (∀ (r : Half) (h l : Byte), (shiftIn16 (shiftIn16 r h) l).toNat = 256 * h.toNat + l.toNat)

/-- R145, R139, R141, R142, R143, R144: when the sum with the checksum byte is 0xFF, D_CKSUM delivers the path's event
with the staged fields and goes back to D_SYNC. -/
def Obligations.ChecksumStepDeliversTheFrame : Prop :=
  ∀ (s : State) (c : Byte), s.dec.phase = .dCksum → s.avail = true → s.port.evReady = true →
    c = s.ring.read s.head.toNat → s.dec.rxSum + c = 0xFF →
    ∃ (t : State) (e : Event) (data : List Byte), exec .dCksum s = .next t ∧
      data.length = s.dec.plen.toNat ∧ (∀ i, i < data.length → data.getD i 0 = s.dec.rxp.read i) ∧
      (s.dec.path = .rx → e = .rxData s.dec.addr64 s.dec.addr16 s.dec.opts data) ∧
      (s.dec.path = .atresp → e = .atResponse s.dec.id s.dec.status data) ∧
      (s.dec.path = .modem → e = .modemStatus s.dec.status) ∧
      (s.dec.path = .txstat →
        e = .txStatus s.dec.id s.dec.addr16 s.dec.retry s.dec.delivery s.dec.discovery (decide (s.dec.delivery ≠ 0))) ∧
      t = { s with
        head := s.head + 1, dec := { s.dec with rxSum := 0xFF, phase := .dSync },
        port := { s.port with events := s.port.events ++ [e] } }

/-- R145, R146: when the sum is not 0xFF, D_CKSUM delivers CHECKSUM_FAIL with the path's frame type and no frame event,
and the DECODER goes on in D_SYNC just past the checksum byte. -/
def Obligations.ChecksumStepRejectsTheFrame : Prop :=
  ∀ (s : State) (c ty : Byte), s.dec.phase = .dCksum → s.avail = true → s.port.evReady = true →
    c = s.ring.read s.head.toNat → s.dec.rxSum + c ≠ 0xFF →
    (s.dec.path = .rx ∧ ty = 0x90 ∨ s.dec.path = .atresp ∧ ty = 0x88 ∨ s.dec.path = .modem ∧ ty = 0x8A ∨
      s.dec.path = .txstat ∧ ty = 0x8B) →
    exec .dCksum s =
      .next { s with
        head := s.head + 1, dec := { s.dec with rxSum := s.dec.rxSum + c, phase := .dSync },
        port := { s.port with events := s.port.events ++ [.checksumFail ty s.dec.len] } }

/-- R148: D_SKIP discards one byte without feeding the sum, and the last one leads back to D_SYNC. -/
def Obligations.SkipStepDiscardsOneByte : Prop :=
  ∀ s : State, s.dec.phase = .dSkip → s.avail = true → 1 ≤ s.dec.rem.toNat →
    ∃ t, exec .dSkip s = .next t ∧ t.dec.rem.toNat = s.dec.rem.toNat - 1 ∧
      t = { s with
        head := s.head + 1,
        dec := { s.dec with rem := t.dec.rem, phase := if s.dec.rem.toNat = 1 then .dSync else .dSkip } }

/-- R93, R133, R207: without a visible byte the DECODER has no step in any phase: it waits, with no timeout.
That a step which is not enabled leaves the state is the model's reading (assumption 7, R31). -/
def Obligations.DecoderWaitsWithoutAByte : Prop :=
  ∀ (i : Instr) (s : State), s.avail = false →
    (∃ feed, i = .pop feed) ∨ i = .peek ∨ i = .dSyncDiscard ∨ i = .dSyncMarker ∨ i = .dLenHi ∨ i = .dLenLo ∨ i = .dType ∨
      i = .dBody ∨ i = .dCksum ∨ i = .dSkip →
    exec i s = .next s

/-- The model's own stops (assumption 9; no rule gives one): a body offset that the layout does not have, by the body bytes
of R114 and R118, the store functions of R138, R140, R142 and R143 and the sizes of `TXP` and `RXP` (R15, R19), is a fault in
D_BODY and E_BODY. No state that meets the invariant gets there: both operations then answer a next state. -/
def Obligations.OffsetsOutsideTheLayoutFault : Prop :=
  ∀ s : State,
    (s.dec.phase = .dBody → s.avail = true → s.dec.pos < s.dec.len →
      (s.dec.path = .modem ∧ 2 ≤ s.dec.pos.toNat ∨ s.dec.path = .txstat ∧ 7 ≤ s.dec.pos.toNat ∨
        s.dec.path = .rx ∧ s.cfg.rxpMax + 12 ≤ s.dec.pos.toNat ∨
        s.dec.path = .atresp ∧ s.cfg.rxpMax + 5 ≤ s.dec.pos.toNat) →
      exec .dBody s = .fault (.storeOffset s.dec.pos.toNat)) ∧
    (s.enc.phase = .eBody → s.port.txReady = true → s.enc.pos < s.enc.len →
      (s.enc.kind = .tx ∧ 255 ≤ s.enc.pos.toNat ∨ s.enc.kind = .atCmd ∧ 4 ≤ s.enc.pos.toNat) →
      exec .eBody s = .fault (.bodyOffset s.enc.pos.toNat)) ∧
    (s.Inv → (∃ t, exec .dBody s = .next t) ∧ ∃ t, exec .eBody s = .next t)

/-! ### The ENCODER's steps -/

/-- R111: an idle ENCODER latches all operands of the command on the port and goes to E_START. That further commands
wait behind it in a list is the model's choice (assumption 12). -/
def Obligations.CommandIsLatched : Prop :=
  ∀ (s : State) (rest : List Command), s.enc.phase = .eIdle → s.enc.txp.wf 241 = true →
    (∀ (id : Byte) (a64 : Addr64) (a16 : Half) (rad opt : Byte) (payload : List Byte),
      s.port.cmds = .txFrame id a64 a16 rad opt payload :: rest → payload.length ≤ 241 →
      ∃ t, exec .cmdAccept s = .next t ∧
        (∀ i, t.enc.txp.read i = if i < payload.length then payload.getD i 0 else s.enc.txp.read i) ∧
        t = { s with
          port := { s.port with cmds := rest, cmdStatus := some .accepted },
          enc := { s.enc with
            phase := .eStart, kind := .tx, len := BitVec.ofNat 16 (payload.length + 14), pos := 0, txId := id,
            txAddr64 := a64, txAddr16 := a16, txRadius := rad, txOpts := opt,
            txPlen := BitVec.ofNat 8 payload.length, txp := t.enc.txp } }) ∧
    (∀ id c1 c2 : Byte, s.port.cmds = .atFrame id c1 c2 :: rest →
      exec .cmdAccept s =
        .next { s with
          port := { s.port with cmds := rest, cmdStatus := some .accepted },
          enc := { s.enc with phase := .eStart, kind := .atCmd, len := 4, pos := 0, atId := id, atC1 := c1, atC2 := c2 } })

/-- R111, R181, D8: an ENC_TX with more than 241 payload bytes is answered REJECTED; nothing is latched, no register
changes and no byte is sent, by CMD_ACCEPT and by the whole-frame operation. The whole frame as one operation, the lists
longer than 255 and the list of waiting commands are the model's choices (assumptions 6, 20 and 12). -/
def Obligations.OversizedCommandIsRejected : Prop :=
  ∀ (s : State) (id : Byte) (a64 : Addr64) (a16 : Half) (rad opt : Byte) (payload : List Byte), 241 < payload.length →
    (∀ rest : List Command, s.enc.phase = .eIdle → s.port.cmds = .txFrame id a64 a16 rad opt payload :: rest →
      exec .cmdAccept s = .next { s with port := { s.port with cmds := rest, cmdStatus := some .rejected } }) ∧
    (s.idleSender →
      exec (.encTx id a64 a16 rad opt payload) s = .next { s with port := { s.port with cmdStatus := some .rejected } })

/-- R110, R111: a busy ENCODER accepts no command, and while `tx_ready` is low no step sends a byte: the ENCODER waits.
That a step which is not enabled leaves the state is the model's reading (assumption 7, R31). -/
def Obligations.EncoderWaits : Prop :=
  ∀ s : State,
    (s.enc.phase ≠ .eIdle → exec .cmdAccept s = .next s) ∧
    (s.port.txReady = false →
      exec .eStart s = .next s ∧ exec .eLen s = .next s ∧ exec .eBody s = .next s ∧ exec .eCksum s = .next s)

/-- R112, R113: the start marker and the big-endian Length are sent unsummed, and the second length byte clears the sum. -/
def Obligations.HeaderBytesAreSent : Prop :=
  ∀ s : State, s.port.txReady = true →
    (s.enc.phase = .eStart →
      exec .eStart s =
        .next { s with
          port := { s.port with txOut := s.port.txOut ++ [0x7E] }, enc := { s.enc with phase := .eLenHi } }) ∧
    (s.enc.phase = .eLenHi →
      exec .eLen s =
        .next { s with
          port := { s.port with txOut := s.port.txOut ++ [BitVec.ofNat 8 (s.enc.len.toNat / 256)] },
          enc := { s.enc with phase := .eLenLo } }) ∧
    (s.enc.phase = .eLenLo →
      exec .eLen s =
        .next { s with
          port := { s.port with txOut := s.port.txOut ++ [BitVec.ofNat 8 s.enc.len.toNat] },
          enc := { s.enc with phase := .eBody, txSum := 0 } })

/-- R114, R115: E_BODY of an ENC_TX frame sends the field byte of its offset, adds it to the sum and moves on. -/
def Obligations.TxBodyByteIsSent : Prop :=
  ∀ (s : State) (k : Nat) (b : Byte), s.enc.phase = .eBody → s.enc.kind = .tx → s.port.txReady = true →
    s.enc.pos < s.enc.len → k = s.enc.pos.toNat → k < 255 →
    (b = if k = 0 then 0x10 else if k = 1 then s.enc.txId
      else if k ≤ 9 then BitVec.ofNat 8 (s.enc.txAddr64.toNat / 256 ^ (9 - k))
      else if k = 10 then BitVec.ofNat 8 (s.enc.txAddr16.toNat / 256)
      else if k = 11 then BitVec.ofNat 8 s.enc.txAddr16.toNat
      else if k = 12 then s.enc.txRadius else if k = 13 then s.enc.txOpts else s.enc.txp.read (k - 14)) →
    exec .eBody s =
      .next { s with
        port := { s.port with txOut := s.port.txOut ++ [b] },
        enc := { s.enc with
          txSum := s.enc.txSum + b, pos := s.enc.pos + 1,
          phase := if k + 1 = s.enc.len.toNat then .eCksum else .eBody } }

/-- R118, R115: E_BODY of an ENC_AT frame sends type, id and the two letters, adds each to the sum and moves on. -/
def Obligations.AtBodyByteIsSent : Prop :=
  ∀ (s : State) (k : Nat), s.enc.phase = .eBody → s.enc.kind = .atCmd → s.port.txReady = true →
    s.enc.pos < s.enc.len → k = s.enc.pos.toNat → k < 4 →
    ∃ b, [0x08, s.enc.atId, s.enc.atC1, s.enc.atC2][k]? = some b ∧
      exec .eBody s =
        .next { s with
          port := { s.port with txOut := s.port.txOut ++ [b] },
          enc := { s.enc with
            txSum := s.enc.txSum + b, pos := s.enc.pos + 1,
            phase := if k + 1 = s.enc.len.toNat then .eCksum else .eBody } }

/-- R116: E_CKSUM sends `0xFF − tx_sum`, leaves the sum, and the ENCODER is idle again. -/
def Obligations.ChecksumByteIsSent : Prop :=
  ∀ s : State, s.enc.phase = .eCksum → s.port.txReady = true →
    exec .eCksum s =
      .next { s with
        port := { s.port with txOut := s.port.txOut ++ [BitVec.ofNat 8 (255 - s.enc.txSum.toNat)] },
        enc := { s.enc with phase := .eIdle } }

/-! ### Whole frames -/

/-- R117: ENC_TX hands exactly `enc_tx` to `tx_out`, in this order and nothing else, and ends idle with `tx_sum` the sum of
the body.
The whole frame as one operation is the model's choice (assumption 6). -/
def Obligations.EncTxSendsItsFrame : Prop :=
  ∀ (id : Byte) (a64 : Addr64) (a16 : Half) (rad opt : Byte) (payload body : List Byte) (s : State),
    s.idleSender → payload.length ≤ 241 →
    body = [0x10, id] ++ bytes64 a64 ++ bytes16 a16 ++ [rad, opt] ++ payload →
    ∃ t, exec (.encTx id a64 a16 rad opt payload) s = .next t ∧
      (∀ i, t.enc.txp.read i = if i < payload.length then payload.getD i 0 else s.enc.txp.read i) ∧
      t = { s with
        port := { s.port with
          cmdStatus := some .accepted,
          txOut := s.port.txOut ++
            ([0x7E, 0x00, BitVec.ofNat 8 (payload.length + 14)] ++ body ++ [0xFF - sumBytes body]) },
        enc := { s.enc with
          phase := .eIdle, kind := .tx, len := BitVec.ofNat 16 (payload.length + 14),
          pos := BitVec.ofNat 16 (payload.length + 14), txSum := sumBytes body, txId := id, txAddr64 := a64,
          txAddr16 := a16, txRadius := rad, txOpts := opt, txPlen := BitVec.ofNat 8 payload.length, txp := t.enc.txp } }

/-- R119: ENC_AT hands exactly `enc_at` to `tx_out`.
The whole frame as one operation is the model's choice (assumption 6). -/
def Obligations.EncAtSendsItsFrame : Prop :=
  ∀ (id c1 c2 : Byte) (s : State), s.idleSender →
    exec (.encAt id c1 c2) s =
      .next { s with
        port := { s.port with
          cmdStatus := some .accepted,
          txOut := s.port.txOut ++
            [0x7E, 0x00, 0x04, 0x08, id, c1, c2, 0xFF - (0x08 + id + c1 + c2)] },
        enc := { s.enc with
          phase := .eIdle, kind := .atCmd, len := 4, pos := 4, txSum := 0x08 + id + c1 + c2, atId := id, atC1 := c1,
          atC2 := c2 } }

/-- R138, R139, R146, R151: a received 0x90 frame delivers RX_DATA with its fields when its checksum holds and
CHECKSUM_FAIL otherwise, consumes exactly `d_len + 4` bytes and leaves the DECODER in D_SYNC.
The whole frame as one operation is the model's choice (assumption 6). -/
def Obligations.RxFrameIsDelivered : Prop :=
  ∀ (src : Addr64) (net : Half) (opt : Byte) (data : List Byte) (ck sum : Byte) (s : State),
    s.listening → s.dec.rxp.wf s.cfg.rxpMax = true → WellFormed s.cfg (.decRx src net opt data ck) = true →
    sum = sumBytes ([0x90] ++ bytes64 src ++ bytes16 net ++ [opt] ++ data ++ [ck]) →
    ∃ t, exec (.decRx src net opt data ck) s = .next t ∧
      s.arrival t (data.length + 16)
        (if sum = 0xFF then .rxData src net opt data else .checksumFail 0x90 (BitVec.ofNat 16 (data.length + 12))) ∧
      (∀ i, t.dec.rxp.read i = if i < data.length then data.getD i 0 else s.dec.rxp.read i) ∧
      t.dec = { s.dec with
        len := BitVec.ofNat 16 (data.length + 12), path := .rx, pos := BitVec.ofNat 16 (data.length + 12), rxSum := sum,
        addr64 := src, addr16 := net, opts := opt, plen := BitVec.ofNat 16 data.length, rxp := t.dec.rxp }

/-- R140, R141, R146, R151: a received 0x88 frame delivers AT_RESPONSE when its checksum holds; the two command letters
are summed and discarded.
The whole frame as one operation is the model's choice (assumption 6). -/
def Obligations.AtResponseFrameIsDelivered : Prop :=
  ∀ (id c1 c2 status : Byte) (data : List Byte) (ck sum : Byte) (s : State),
    s.listening → s.dec.rxp.wf s.cfg.rxpMax = true → WellFormed s.cfg (.decAtresp id c1 c2 status data ck) = true →
    sum = sumBytes ([0x88, id, c1, c2, status] ++ data ++ [ck]) →
    ∃ t, exec (.decAtresp id c1 c2 status data ck) s = .next t ∧
      s.arrival t (data.length + 9)
        (if sum = 0xFF then .atResponse id status data else .checksumFail 0x88 (BitVec.ofNat 16 (data.length + 5))) ∧
      (∀ i, t.dec.rxp.read i = if i < data.length then data.getD i 0 else s.dec.rxp.read i) ∧
      t.dec = { s.dec with
        len := BitVec.ofNat 16 (data.length + 5), path := .atresp, pos := BitVec.ofNat 16 (data.length + 5), rxSum := sum,
        id := id, status := status, plen := BitVec.ofNat 16 data.length, rxp := t.dec.rxp }

/-- R142, R143, R144, R146, R151: received 0x8A and 0x8B frames deliver MODEM_STATUS and TX_STATUS when their checksum
holds; a non-zero delivery status is a send failure.
The whole frame as one operation is the model's choice (assumption 6). -/
def Obligations.StatusFramesAreDelivered : Prop :=
  ∀ s : State, s.listening →
    (∀ status ck sum : Byte, sum = 0x8A + status + ck →
      ∃ t, exec (.decModem status ck) s = .next t ∧
        s.arrival t 6 (if sum = 0xFF then .modemStatus status else .checksumFail 0x8A 2) ∧
        t.dec = { s.dec with len := 2, path := .modem, pos := 2, rxSum := sum, status := status, plen := 0 }) ∧
    (∀ (id : Byte) (net : Half) (retry delivery discovery ck sum : Byte),
      sum = sumBytes ([0x8B, id] ++ bytes16 net ++ [retry, delivery, discovery, ck]) →
      ∃ t, exec (.decTxstat id net retry delivery discovery ck) s = .next t ∧
        s.arrival t 11
          (if sum = 0xFF then .txStatus id net retry delivery discovery (decide (delivery ≠ 0))
            else .checksumFail 0x8B 7) ∧
        t.dec = { s.dec with
          len := 7, path := .txstat, pos := 7, rxSum := sum, id := id, addr16 := net, retry := retry, delivery := delivery,
          discovery := discovery, plen := 0 })

/-- R147, R149, R150, R151: a frame that is not decoded is reported once and skipped by its declared length, its checksum
unexamined.
The whole frame as one operation is the model's choice (assumption 6). -/
def Obligations.OtherFramesAreSkipped : Prop :=
  ∀ (len : Half) (ty : Byte) (rest : List Byte) (e : Event) (s : State), s.listening →
    WellFormed s.cfg (.decSkip len ty rest) = true →
    (ty ≠ 0x90 ∧ ty ≠ 0x88 ∧ ty ≠ 0x8A ∧ ty ≠ 0x8B ∧ e = .unknownType ty len ∨
      (ty = 0x90 ∧ len.toNat < 12 ∨ ty = 0x88 ∧ len.toNat < 5 ∨ ty = 0x8A ∨ ty = 0x8B) ∧ e = .badLength ty len ∨
      (ty = 0x90 ∧ 12 ≤ len.toNat ∨ ty = 0x88 ∧ 5 ≤ len.toNat) ∧ e = .oversize ty len) →
    ∃ t, exec (.decSkip len ty rest) s = .next t ∧ s.arrival t (len.toNat + 4) e ∧
      t.dec = { s.dec with len := len, pos := 0, rem := 0, rxSum := 0 }

/-- R122, R70: a frame the ENCODER sends, of either kind, is valid (its body and checksum byte sum to 0xFF), yet looped back
into `rx_in` it is reported as UNKNOWN_TYPE and skipped. The whole frame as one operation is the model's choice
(assumption 6). -/
def Obligations.LoopedBackFramesAreUnknown : Prop :=
  (∀ (id : Byte) (a64 : Addr64) (a16 : Half) (rad opt : Byte) (payload : List Byte), payload.length ≤ 241 →
    sumBytes ((encTxFrame id a64 a16 rad opt payload).drop 3) = 0xFF ∧
    ∀ (s u : State) (rest : List Turn), u = { s with sched := rest } → s.listening →
      s.sched = .frame .received (encTxFrame id a64 a16 rad opt payload) :: rest →
      ∃ t, step s = .next t ∧
        u.arrival t (payload.length + 18) (.unknownType 0x10 (BitVec.ofNat 16 (payload.length + 14)))) ∧
  ∀ id c1 c2 : Byte,
    sumBytes ((encAtFrame id c1 c2).drop 3) = 0xFF ∧
    ∀ (s u : State) (rest : List Turn), u = { s with sched := rest } → s.listening →
      s.sched = .frame .received (encAtFrame id c1 c2) :: rest →
      ∃ t, step s = .next t ∧ u.arrival t 8 (.unknownType 0x08 4)

/-- R122, R62: a body with its checksum byte sums to 0xFF, and a single changed byte never does. -/
def Obligations.ChecksumCatchesAChangedByte : Prop :=
  (∀ body : List Byte, sumBytes (body ++ [checksumOf body]) = 0xFF) ∧
  ∀ (xs ys : List Byte) (b c : Byte), b ≠ c → sumBytes (xs ++ b :: ys) = 0xFF → sumBytes (xs ++ c :: ys) ≠ 0xFF

/-- R152: with the bytes `bs` pushed, one SYNC and the DECODER run to its end, the events delivered are those of the
closed form, and the DECODER is in a phase the closed form names. That the order of steps is a list of turns and that a
DECODER turn with no step leaves the state are the model's choices (assumptions 2 and 7). -/
def Obligations.RunIsTheClosedForm : Prop :=
  ∀ (s : State) (bs : List Byte), s.listening → s.dec.rxp.wf s.cfg.rxpMax = true → bs.length ≤ 255 →
    ∃ t, Host.Core.run Sys2Proof.core (bs.length + 513)
        { s with sched := bs.map Turn.rx ++ (.sync .both :: List.replicate 512 .decoder) } = .next t ∧
      t.port.events = s.port.events ++ (dec s.cfg bs).1 ∧ t.dec.phase ∈ (dec s.cfg bs).2

/-- R7, R182: a whole-frame operation is a run of single byte steps of the agents: listing those steps as turns gives the
same state.
The whole frame as one operation is the model's choice (assumption 6). -/
def Obligations.FrameOperationsAreByteSteps : Prop :=
  ∀ (i : Instr) (s t : State), (encode i).isSome = true → exec i s = .next t →
    ∃ turns : List Turn, (∀ x ∈ turns, byteTurn x = true) ∧
      Host.Core.run Sys2Proof.core turns.length { s with sched := turns ++ s.sched } = .next t

/-! ### Encoding -/

/-- R60 to R68, R71, R72: decoding the bytes of a well-formed frame gives the frame back, with every operand at every value,
and leaves the bytes behind it. -/
def Obligations.DecodeOfEncodeIsTheOperation : Prop :=
  ∀ (cfg : Config) (i : Instr) (dir : Direction) (bs more : List Byte), WellFormed cfg i = true → i.frameDir = some dir →
    encode i = some bs → decode cfg dir (bs ++ more) = .ok (i, more)

/-- R155: the reference decoders give back the operands of every sent frame. -/
def Obligations.ReferenceDecodersRoundTrip : Prop :=
  (∀ (id : Byte) (a64 : Addr64) (a16 : Half) (rad opt : Byte) (payload : List Byte), payload.length ≤ 241 →
    refDecTx (encTxFrame id a64 a16 rad opt payload) = some (.encTx id a64 a16 rad opt payload)) ∧
  ∀ id c1 c2 : Byte, refDecAt (encAtFrame id c1 c2) = some (.encAt id c1 c2)

/-- R61, R151: a frame takes exactly `L + 4` bytes on the wire, and the decoder takes exactly those. -/
def Obligations.FrameExtentIsTheLength : Prop :=
  ∀ (cfg : Config) (dir : Direction) (hi lo ty : Byte) (bs rest : List Byte) (i : Instr),
    decode cfg dir (0x7E :: hi :: lo :: ty :: bs) = .ok (i, rest) →
    (0x7E :: hi :: lo :: ty :: bs).length = (256 * hi.toNat + lo.toNat) + 4 + rest.length ∧
      ∃ consumed, 0x7E :: hi :: lo :: ty :: bs = consumed ++ rest

/-- R71: a few header words of spec/opcode_table.json, written out, and the operations they stand for.
The zero padding of a table word is the model's choice (assumption 8). -/
def Obligations.TableWordsDecode : Prop :=
  decodeTableWord 32 0x7E000408 = some (.encAt 0 0 0) ∧ decodeTableWord 32 0x7E00028A = some (.decModem 0 0) ∧
    decodeTableWord 32 0x7E00078B = some (.decTxstat 0 0 0 0 0 0) ∧
    decodeTableWord 32 0x7E000C90 = some (.decRx 0 0 0 [] 0) ∧
    decodeTableWord 32 0x7E000588 = some (.decAtresp 0 0 0 0 [] 0) ∧
    decodeTableWord 32 0x7E000E10 = some (.encTx 0 0 0 0 0 []) ∧ decodeTableWord 32 0x7E000295 = some (.decSkip 2 0x95 [0, 0])

/-! ### Steps and reset -/

/-- A step on a whole frame runs the operation its bytes decode to; bytes behind it stay for the next step.
That the turn names the step is the model's choice (assumption 2). -/
def Obligations.StepRunsTheDecodedFrame : Prop :=
  ∀ (s : State) (dir : Direction) (bytes more : List Byte) (rest : List Turn) (i : Instr),
    s.sched = .frame dir bytes :: rest → decode s.cfg dir bytes = .ok (i, more) →
    step s = exec i { s with sched := if more = [] then rest else .frame dir more :: rest }

/-- R75, R130, R174, R201: a step on an agent's turn runs the operation that the port or the phase register selects, a
step on a ready level sets the level, and a byte or a command that comes while `rst` is held is lost (U21). The model's
choices are: that the turn names the step, bare POP and PEEK among them (assumption 2), that the ready levels are held
(assumption 10), that an offered command joins the end of a list of waiting ones (assumption 12), and of a reset its two
forms, one step and a held level, and that a command lost in it gets no reply (assumption 23). Whole frames are
StepRunsTheDecodedFrame's. -/
def Obligations.StepRunsTheSelectedOperation : Prop :=
  ∀ (s u : State) (rest : List Turn), u = { s with sched := rest } →
    (∀ b, s.sched = .rx b :: rest →
      step s =
        if s.port.rst = true then .next u
        else if s.tail + 1 = s.headView then exec (.pushDrop b) u else exec (.push b) u) ∧
    (∀ c, s.sched = .command c :: rest →
      step s = .next (if s.port.rst = true then u else { u with port := { s.port with cmds := s.port.cmds ++ [c] } })) ∧
    (s.sched = .rst true :: rest → step s = exec .reset { u with port := { s.port with rst := true } }) ∧
    (s.sched = .rst false :: rest → step s = .next { u with port := { s.port with rst := false } }) ∧
    (s.sched = .decoder :: rest →
      step s =
        match s.dec.phase with
        | .dSync => if s.ring.read s.head.toNat = 0x7E then exec .dSyncMarker u else exec .dSyncDiscard u
        | .dLenHi => exec .dLenHi u
        | .dLenLo => exec .dLenLo u
        | .dType => exec .dType u
        | .dBody => exec .dBody u
        | .dCksum => exec .dCksum u
        | .dSkip => exec .dSkip u) ∧
    (s.sched = .encoder :: rest →
      step s =
        match s.enc.phase with
        | .eIdle => exec .cmdAccept u
        | .eStart => exec .eStart u
        | .eLenHi => exec .eLen u
        | .eLenLo => exec .eLen u
        | .eBody => exec .eBody u
        | .eCksum => exec .eCksum u) ∧
    (s.sched = .sync .tailOnly :: rest → step s = exec (.sync true false) u) ∧
    (s.sched = .sync .headOnly :: rest → step s = exec (.sync false true) u) ∧
    (s.sched = .sync .both :: rest → step s = exec (.sync true true) u) ∧
    (s.sched = .reset :: rest → step s = exec .reset u) ∧ (s.sched = .sample :: rest → step s = exec .available u) ∧
    (∀ feed, s.sched = .pop feed :: rest → step s = exec (.pop feed) u) ∧
    (s.sched = .peek :: rest → step s = exec .peek u) ∧
    (∀ level, s.sched = .txReady level :: rest → step s = .next { u with port := { s.port with txReady := level } }) ∧
    (∀ level, s.sched = .evReady level :: rest → step s = .next { u with port := { s.port with evReady := level } })

/-- R200, R21, R201: RESET empties the ring, puts both agents at their first phase and both sums at 0, and loses an offered
command; what was sent, delivered or dropped stays. The registers R21 leaves unspecified are not mentioned: any value.
Free values, kept traces and the cleared list of commands are the model's form (assumptions 3, 11 and 12). -/
def Obligations.ResetPutsTheResetValues : Prop :=
  ∀ s : State, ∃ t, exec .reset s = .next t ∧ t.head = 0 ∧ t.tail = 0 ∧ t.headP = 0 ∧ t.tailC = 0 ∧
    t.dec.phase = .dSync ∧ t.enc.phase = .eIdle ∧ t.dec.rxSum = 0 ∧ t.enc.txSum = 0 ∧ t.avail = false ∧
    t.ring.wf 256 = true ∧ t.dec.rxp.wf s.cfg.rxpMax = true ∧ t.enc.txp.wf 241 = true ∧
    t = { s with
      ring := t.ring, head := 0, tail := 0, headP := 0, tailC := 0, dec := t.dec, enc := t.enc, tick := s.tick + 1,
      port := { s.port with cmds := [], cmdStatus := none, ret := none } }

/-! ### Weak fairness -/

/-- R7, R49, R98, R100: in an endless run that is weakly fair, each view catches up with its index again and again, so no
update stays unseen; and where the host is ready and the agents take single byte steps, the oldest unread byte is popped in
the end. The schedule as a sequence of turns is the model's choice (assumptions 2 and 14). -/
def Obligations.FairRunsServeTheRing : Prop :=
  ∀ (turns : Nat → Turn) (states : Nat → State), FairRun turns states →
    (InfinitelyOften fun m => (states m).tailView = (states m).tail) ∧
    (InfinitelyOften fun m => (states m).headView = (states m).head) ∧
    ((states 0).Inv → (∀ m, byteTurn (turns m) = true ∧ (states m).port.evReady = true) →
      ∀ n, (states n).count ≠ 0 → ∃ m, n ≤ m ∧ (states m).head = (states n).head + 1)
end

