-- ==== Sys2Proof/Laws/Memory.lean ====
section
/-! SUPPORT. Laws of the byte stores: read after write, and every operation keeps the canonical form. -/

namespace Sys2Proof.Machine

@[simp] theorem Memory.read_nil (a : Nat) : Memory.read [] a = Memory.fill := rfl

theorem Memory.read_cons (k : Nat) (v : Byte) (rest : Memory) (a : Nat) :
    Memory.read ((k, v) :: rest) a = if k = a then v else Memory.read rest a := rfl

theorem Memory.wfFrom_cons {bound lo k : Nat} {v : Byte} {rest : Memory} :
    Memory.wfFrom bound lo ((k, v) :: rest) = true ↔
      lo ≤ k ∧ k < bound ∧ v ≠ Memory.fill ∧ Memory.wfFrom bound (k + 1) rest = true := by
  simp [Memory.wfFrom, and_assoc]

/-- The canonical form from a higher address is one from a lower address. -/
theorem Memory.wfFrom_mono {bound lo lo' : Nat} (h : lo ≤ lo') {m : Memory} (hm : Memory.wfFrom bound lo' m = true) :
    Memory.wfFrom bound lo m = true := by
  cases m with
  | nil => rfl
  | cons c rest =>
    obtain ⟨k, v⟩ := c
    rw [Memory.wfFrom_cons] at hm ⊢
    exact ⟨h.trans hm.1, hm.2⟩

/-- Below its first address a canonical store reads as unlisted. -/
theorem Memory.read_of_lt_wfFrom {bound : Nat} : ∀ {m : Memory} {lo a : Nat},
    Memory.wfFrom bound lo m = true → a < lo → m.read a = Memory.fill
  | [], _, _, _, _ => rfl
  | (k, v) :: rest, lo, a, hm, ha => by
    rw [Memory.wfFrom_cons] at hm
    have hne : k ≠ a := by omega
    rw [Memory.read_cons, if_neg hne]
    exact Memory.read_of_lt_wfFrom hm.2.2.2 (by omega)

/-- `write` keeps the canonical form. -/
theorem Memory.write_wfFrom {bound : Nat} : ∀ {m : Memory} {lo a : Nat} {v : Byte},
    Memory.wfFrom bound lo m = true → lo ≤ a → a < bound → Memory.wfFrom bound lo (m.write a v) = true
  | [], lo, a, v, _, hlo, hb => by
    unfold Memory.write
    split
    · rfl
    · next h => rw [Memory.wfFrom_cons]; exact ⟨hlo, hb, h, rfl⟩
  | (k, w) :: rest, lo, a, v, hm, hlo, hb => by
    have hc := Memory.wfFrom_cons.1 hm
    unfold Memory.write
    split
    · next hak =>
      split
      · exact hm
      · next h =>
        rw [Memory.wfFrom_cons]
        refine ⟨hlo, hb, h, ?_⟩
        rw [Memory.wfFrom_cons]
        exact ⟨hak, hc.2⟩
    · next hak =>
      split
      · next he =>
        subst he
        split
        · exact Memory.wfFrom_mono (by omega) hc.2.2.2
        · next h => rw [Memory.wfFrom_cons]; exact ⟨hc.1, hc.2.1, h, hc.2.2.2⟩
      · next hne =>
        rw [Memory.wfFrom_cons]
        exact ⟨hc.1, hc.2.1, hc.2.2.1, Memory.write_wfFrom hc.2.2.2 (by omega) hb⟩

theorem Memory.write_wf {bound a : Nat} {m : Memory} {v : Byte} (hm : m.wf bound = true) (ha : a < bound) :
    (m.write a v).wf bound = true :=
  Memory.write_wfFrom hm (Nat.zero_le _) ha

/-- Read after write, in a store of canonical form. -/
theorem Memory.read_write_from {bound : Nat} : ∀ {m : Memory} {lo : Nat} (a : Nat) (v : Byte) (b : Nat),
    Memory.wfFrom bound lo m = true → (m.write a v).read b = if b = a then v else m.read b
  | [], _, a, v, b, _ => by
    unfold Memory.write
    split
    · next h => subst h; simp
    · rw [Memory.read_cons]
      simp [eq_comm]
  | (k, w) :: rest, lo, a, v, b, hm => by
    have hc := Memory.wfFrom_cons.1 hm
    unfold Memory.write
    split
    · next hak =>
      have hr : Memory.read rest a = Memory.fill := Memory.read_of_lt_wfFrom hc.2.2.2 (by omega)
      split
      · next hv =>
        rw [Memory.read_cons]
        by_cases hb : b = a
        · subst hb
          rw [if_pos rfl, if_neg (by omega), hr, hv]
        · rw [if_neg hb]
      · rw [Memory.read_cons]
        by_cases hb : b = a
        · rw [if_pos hb, if_pos hb.symm]
        · rw [if_neg hb, if_neg (fun h => hb h.symm)]
    · next hak =>
      split
      · next he =>
        subst he
        split
        · next hv =>
          by_cases hb : b = a
          · subst hb
            rw [if_pos rfl, hv]
            exact Memory.read_of_lt_wfFrom hc.2.2.2 (by omega)
          · rw [if_neg hb, Memory.read_cons, if_neg (fun h => hb h.symm)]
        · rw [Memory.read_cons, Memory.read_cons]
          by_cases hb : b = a
          · rw [if_pos hb, if_pos hb.symm]
          · rw [if_neg hb, if_neg (fun h => hb h.symm), if_neg (fun h => hb h.symm)]
      · next hne =>
        rw [Memory.read_cons, Memory.read_cons, Memory.read_write_from a v b hc.2.2.2]
        by_cases hk : k = b
        · subst hk
          rw [if_pos rfl, if_pos rfl, if_neg (fun h => hne h.symm)]
        · rw [if_neg hk, if_neg hk]

/-- Read after write gives the byte written at its address and the old byte everywhere else. -/
theorem Memory.read_write {bound : Nat} {m : Memory} (hm : m.wf bound = true) (a : Nat) (v : Byte) (b : Nat) :
    (m.write a v).read b = if b = a then v else m.read b :=
  Memory.read_write_from a v b hm

/-- `writeList` keeps the canonical form. -/
theorem Memory.writeList_wf {bound : Nat} : ∀ {bs : List Byte} {m : Memory} {a : Nat},
    m.wf bound = true → a + bs.length ≤ bound → (m.writeList a bs).wf bound = true
  | [], _, _, hm, _ => hm
  | b :: bs, m, a, hm, hb => by
    simp only [List.length_cons] at hb
    have hw : (m.write a b).wf bound = true := Memory.write_wf hm (by omega)
    exact Memory.writeList_wf (bs := bs) hw (by omega)

/-- Read after `writeList`. -/
theorem Memory.read_writeList {bound : Nat} : ∀ {bs : List Byte} {m : Memory} {a : Nat} (i : Nat),
    m.wf bound = true → a + bs.length ≤ bound →
      (m.writeList a bs).read i = if a ≤ i ∧ i < a + bs.length then bs.getD (i - a) 0 else m.read i
  | [], m, a, i, _, _ => by
    rw [if_neg (by simp only [List.length_nil]; omega)]
    rfl
  | b :: bs, m, a, i, hm, hb => by
    simp only [List.length_cons] at hb
    have hw : (m.write a b).wf bound = true := Memory.write_wf hm (by omega)
    show ((m.write a b).writeList (a + 1) bs).read i = _
    rw [Memory.read_writeList i hw (by omega), Memory.read_write hm]
    simp only [List.length_cons]
    by_cases h1 : i = a
    · subst h1
      rw [if_neg (by omega), if_pos rfl, if_pos (by omega)]
      simp
    · by_cases h2 : a + 1 ≤ i ∧ i < a + 1 + bs.length
      · rw [if_pos h2, if_pos (by omega)]
        obtain ⟨j, rfl⟩ : ∃ j, i = a + 1 + j := ⟨i - (a + 1), by omega⟩
        rw [show a + 1 + j - (a + 1) = j by omega, show a + 1 + j - a = j + 1 by omega]
        simp
      · rw [if_neg h2, if_neg h1, if_neg (by omega)]

/-- A store of free values has the canonical form. -/
theorem Memory.free_wf (slot tick n : Nat) : (Memory.free slot tick n).wf n = true :=
  Memory.writeList_wf rfl (by simp)

@[simp] theorem Memory.readList_length (m : Memory) : ∀ (n a : Nat), (m.readList a n).length = n
  | 0, _ => rfl
  | n + 1, a => by simp [Memory.readList, Memory.readList_length m n (a + 1)]

/-- The bytes of `readList` are those of `read`. -/
theorem Memory.readList_getD (m : Memory) : ∀ (n a i : Nat), i < n → (m.readList a n).getD i 0 = m.read (a + i)
  | 0, _, _, h => absurd h (Nat.not_lt_zero _)
  | n + 1, a, 0, _ => rfl
  | n + 1, a, i + 1, h => by
    have := Memory.readList_getD m n (a + 1) i (by omega)
    simpa [Memory.readList, show a + 1 + i = a + (i + 1) by omega] using this

/-- The stores of the reset state have the canonical form. -/
theorem reset_stores_wf :
    State.reset.ring.wf Config.ringN = true ∧ State.reset.dec.rxp.wf State.reset.cfg.rxpMax = true ∧
      State.reset.enc.txp.wf Config.payloadTxMax = true :=
  ⟨rfl, rfl, rfl⟩

end Sys2Proof.Machine
end

