-- ==== Sys2Proof/Laws/State.lean ====
section
/-! SUPPORT. The small lemmas of every named update of the state: what each field is afterwards. -/

namespace Sys2Proof.Machine

/-! ### pushByte -/

@[simp] theorem State.pushByte_cfg (s : State) (b : Byte) : (s.pushByte b).cfg = s.cfg := rfl
@[simp] theorem State.pushByte_ring (s : State) (b : Byte) : (s.pushByte b).ring = s.ring.write s.tail.toNat b := rfl
@[simp] theorem State.pushByte_head (s : State) (b : Byte) : (s.pushByte b).head = s.head := rfl
@[simp] theorem State.pushByte_tail (s : State) (b : Byte) : (s.pushByte b).tail = s.tail + 1 := rfl
@[simp] theorem State.pushByte_headP (s : State) (b : Byte) : (s.pushByte b).headP = s.headP := rfl
@[simp] theorem State.pushByte_tailC (s : State) (b : Byte) : (s.pushByte b).tailC = s.tailC := rfl
@[simp] theorem State.pushByte_dec (s : State) (b : Byte) : (s.pushByte b).dec = s.dec := rfl
@[simp] theorem State.pushByte_enc (s : State) (b : Byte) : (s.pushByte b).enc = s.enc := rfl
@[simp] theorem State.pushByte_port (s : State) (b : Byte) : (s.pushByte b).port = s.port := rfl
@[simp] theorem State.pushByte_sched (s : State) (b : Byte) : (s.pushByte b).sched = s.sched := rfl
@[simp] theorem State.pushByte_tick (s : State) (b : Byte) : (s.pushByte b).tick = s.tick := rfl

/-! ### dropByte -/

@[simp] theorem State.dropByte_cfg (s : State) (b : Byte) : (s.dropByte b).cfg = s.cfg := rfl
@[simp] theorem State.dropByte_ring (s : State) (b : Byte) : (s.dropByte b).ring = s.ring := rfl
@[simp] theorem State.dropByte_head (s : State) (b : Byte) : (s.dropByte b).head = s.head := rfl
@[simp] theorem State.dropByte_tail (s : State) (b : Byte) : (s.dropByte b).tail = s.tail := rfl
@[simp] theorem State.dropByte_headP (s : State) (b : Byte) : (s.dropByte b).headP = s.headP := rfl
@[simp] theorem State.dropByte_tailC (s : State) (b : Byte) : (s.dropByte b).tailC = s.tailC := rfl
@[simp] theorem State.dropByte_dec (s : State) (b : Byte) : (s.dropByte b).dec = s.dec := rfl
@[simp] theorem State.dropByte_enc (s : State) (b : Byte) : (s.dropByte b).enc = s.enc := rfl
@[simp] theorem State.dropByte_port (s : State) (b : Byte) :
    (s.dropByte b).port =
      { s.port with rxDrops := s.port.rxDrops ++ [b] } := rfl
@[simp] theorem State.dropByte_sched (s : State) (b : Byte) : (s.dropByte b).sched = s.sched := rfl
@[simp] theorem State.dropByte_tick (s : State) (b : Byte) : (s.dropByte b).tick = s.tick := rfl

/-! ### popByte -/

@[simp] theorem State.popByte_cfg (s : State) (feed : Bool) : (s.popByte feed).cfg = s.cfg := rfl
@[simp] theorem State.popByte_ring (s : State) (feed : Bool) : (s.popByte feed).ring = s.ring := rfl
@[simp] theorem State.popByte_head (s : State) (feed : Bool) : (s.popByte feed).head = s.head + 1 := rfl
@[simp] theorem State.popByte_tail (s : State) (feed : Bool) : (s.popByte feed).tail = s.tail := rfl
@[simp] theorem State.popByte_headP (s : State) (feed : Bool) : (s.popByte feed).headP = s.headP := rfl
@[simp] theorem State.popByte_tailC (s : State) (feed : Bool) : (s.popByte feed).tailC = s.tailC := rfl
@[simp] theorem State.popByte_dec (s : State) (feed : Bool) :
    (s.popByte feed).dec =
      { s.dec with rxSum := if feed then s.dec.rxSum + s.headByte else s.dec.rxSum } := rfl
@[simp] theorem State.popByte_enc (s : State) (feed : Bool) : (s.popByte feed).enc = s.enc := rfl
@[simp] theorem State.popByte_port (s : State) (feed : Bool) : (s.popByte feed).port = s.port := rfl
@[simp] theorem State.popByte_sched (s : State) (feed : Bool) : (s.popByte feed).sched = s.sched := rfl
@[simp] theorem State.popByte_tick (s : State) (feed : Bool) : (s.popByte feed).tick = s.tick := rfl

/-! ### answer -/

@[simp] theorem State.answer_cfg (s : State) (r : Result) : (s.answer r).cfg = s.cfg := rfl
@[simp] theorem State.answer_ring (s : State) (r : Result) : (s.answer r).ring = s.ring := rfl
@[simp] theorem State.answer_head (s : State) (r : Result) : (s.answer r).head = s.head := rfl
@[simp] theorem State.answer_tail (s : State) (r : Result) : (s.answer r).tail = s.tail := rfl
@[simp] theorem State.answer_headP (s : State) (r : Result) : (s.answer r).headP = s.headP := rfl
@[simp] theorem State.answer_tailC (s : State) (r : Result) : (s.answer r).tailC = s.tailC := rfl
@[simp] theorem State.answer_dec (s : State) (r : Result) : (s.answer r).dec = s.dec := rfl
@[simp] theorem State.answer_enc (s : State) (r : Result) : (s.answer r).enc = s.enc := rfl
@[simp] theorem State.answer_port (s : State) (r : Result) : (s.answer r).port = { s.port with ret := some r } := rfl
@[simp] theorem State.answer_sched (s : State) (r : Result) : (s.answer r).sched = s.sched := rfl
@[simp] theorem State.answer_tick (s : State) (r : Result) : (s.answer r).tick = s.tick := rfl

/-! ### emit -/

@[simp] theorem State.emit_cfg (s : State) (e : Event) : (s.emit e).cfg = s.cfg := rfl
@[simp] theorem State.emit_ring (s : State) (e : Event) : (s.emit e).ring = s.ring := rfl
@[simp] theorem State.emit_head (s : State) (e : Event) : (s.emit e).head = s.head := rfl
@[simp] theorem State.emit_tail (s : State) (e : Event) : (s.emit e).tail = s.tail := rfl
@[simp] theorem State.emit_headP (s : State) (e : Event) : (s.emit e).headP = s.headP := rfl
@[simp] theorem State.emit_tailC (s : State) (e : Event) : (s.emit e).tailC = s.tailC := rfl
@[simp] theorem State.emit_dec (s : State) (e : Event) : (s.emit e).dec = s.dec := rfl
@[simp] theorem State.emit_enc (s : State) (e : Event) : (s.emit e).enc = s.enc := rfl
@[simp] theorem State.emit_port (s : State) (e : Event) :
    (s.emit e).port =
      { s.port with events := s.port.events ++ [e] } := rfl
@[simp] theorem State.emit_sched (s : State) (e : Event) : (s.emit e).sched = s.sched := rfl
@[simp] theorem State.emit_tick (s : State) (e : Event) : (s.emit e).tick = s.tick := rfl

/-! ### sendByte -/

@[simp] theorem State.sendByte_cfg (s : State) (b : Byte) : (s.sendByte b).cfg = s.cfg := rfl
@[simp] theorem State.sendByte_ring (s : State) (b : Byte) : (s.sendByte b).ring = s.ring := rfl
@[simp] theorem State.sendByte_head (s : State) (b : Byte) : (s.sendByte b).head = s.head := rfl
@[simp] theorem State.sendByte_tail (s : State) (b : Byte) : (s.sendByte b).tail = s.tail := rfl
@[simp] theorem State.sendByte_headP (s : State) (b : Byte) : (s.sendByte b).headP = s.headP := rfl
@[simp] theorem State.sendByte_tailC (s : State) (b : Byte) : (s.sendByte b).tailC = s.tailC := rfl
@[simp] theorem State.sendByte_dec (s : State) (b : Byte) : (s.sendByte b).dec = s.dec := rfl
@[simp] theorem State.sendByte_enc (s : State) (b : Byte) : (s.sendByte b).enc = s.enc := rfl
@[simp] theorem State.sendByte_port (s : State) (b : Byte) :
    (s.sendByte b).port =
      { s.port with txOut := s.port.txOut ++ [b] } := rfl
@[simp] theorem State.sendByte_sched (s : State) (b : Byte) : (s.sendByte b).sched = s.sched := rfl
@[simp] theorem State.sendByte_tick (s : State) (b : Byte) : (s.sendByte b).tick = s.tick := rfl

/-! ### clearTxSum -/

@[simp] theorem State.clearTxSum_cfg (s : State) : (s.clearTxSum).cfg = s.cfg := rfl
@[simp] theorem State.clearTxSum_ring (s : State) : (s.clearTxSum).ring = s.ring := rfl
@[simp] theorem State.clearTxSum_head (s : State) : (s.clearTxSum).head = s.head := rfl
@[simp] theorem State.clearTxSum_tail (s : State) : (s.clearTxSum).tail = s.tail := rfl
@[simp] theorem State.clearTxSum_headP (s : State) : (s.clearTxSum).headP = s.headP := rfl
@[simp] theorem State.clearTxSum_tailC (s : State) : (s.clearTxSum).tailC = s.tailC := rfl
@[simp] theorem State.clearTxSum_dec (s : State) : (s.clearTxSum).dec = s.dec := rfl
@[simp] theorem State.clearTxSum_enc (s : State) : (s.clearTxSum).enc = { s.enc with txSum := 0 } := rfl
@[simp] theorem State.clearTxSum_port (s : State) : (s.clearTxSum).port = s.port := rfl
@[simp] theorem State.clearTxSum_sched (s : State) : (s.clearTxSum).sched = s.sched := rfl
@[simp] theorem State.clearTxSum_tick (s : State) : (s.clearTxSum).tick = s.tick := rfl

/-! ### addTxSum -/

@[simp] theorem State.addTxSum_cfg (s : State) (b : Byte) : (s.addTxSum b).cfg = s.cfg := rfl
@[simp] theorem State.addTxSum_ring (s : State) (b : Byte) : (s.addTxSum b).ring = s.ring := rfl
@[simp] theorem State.addTxSum_head (s : State) (b : Byte) : (s.addTxSum b).head = s.head := rfl
@[simp] theorem State.addTxSum_tail (s : State) (b : Byte) : (s.addTxSum b).tail = s.tail := rfl
@[simp] theorem State.addTxSum_headP (s : State) (b : Byte) : (s.addTxSum b).headP = s.headP := rfl
@[simp] theorem State.addTxSum_tailC (s : State) (b : Byte) : (s.addTxSum b).tailC = s.tailC := rfl
@[simp] theorem State.addTxSum_dec (s : State) (b : Byte) : (s.addTxSum b).dec = s.dec := rfl
@[simp] theorem State.addTxSum_enc (s : State) (b : Byte) :
    (s.addTxSum b).enc =
      { s.enc with txSum := s.enc.txSum + b } := rfl
@[simp] theorem State.addTxSum_port (s : State) (b : Byte) : (s.addTxSum b).port = s.port := rfl
@[simp] theorem State.addTxSum_sched (s : State) (b : Byte) : (s.addTxSum b).sched = s.sched := rfl
@[simp] theorem State.addTxSum_tick (s : State) (b : Byte) : (s.addTxSum b).tick = s.tick := rfl

/-! ### clearRxSum -/

@[simp] theorem State.clearRxSum_cfg (s : State) : (s.clearRxSum).cfg = s.cfg := rfl
@[simp] theorem State.clearRxSum_ring (s : State) : (s.clearRxSum).ring = s.ring := rfl
@[simp] theorem State.clearRxSum_head (s : State) : (s.clearRxSum).head = s.head := rfl
@[simp] theorem State.clearRxSum_tail (s : State) : (s.clearRxSum).tail = s.tail := rfl
@[simp] theorem State.clearRxSum_headP (s : State) : (s.clearRxSum).headP = s.headP := rfl
@[simp] theorem State.clearRxSum_tailC (s : State) : (s.clearRxSum).tailC = s.tailC := rfl
@[simp] theorem State.clearRxSum_dec (s : State) : (s.clearRxSum).dec = { s.dec with rxSum := 0 } := rfl
@[simp] theorem State.clearRxSum_enc (s : State) : (s.clearRxSum).enc = s.enc := rfl
@[simp] theorem State.clearRxSum_port (s : State) : (s.clearRxSum).port = s.port := rfl
@[simp] theorem State.clearRxSum_sched (s : State) : (s.clearRxSum).sched = s.sched := rfl
@[simp] theorem State.clearRxSum_tick (s : State) : (s.clearRxSum).tick = s.tick := rfl

/-! ### toDPhase -/

@[simp] theorem State.toDPhase_cfg (s : State) (p : DPhase) : (s.toDPhase p).cfg = s.cfg := rfl
@[simp] theorem State.toDPhase_ring (s : State) (p : DPhase) : (s.toDPhase p).ring = s.ring := rfl
@[simp] theorem State.toDPhase_head (s : State) (p : DPhase) : (s.toDPhase p).head = s.head := rfl
@[simp] theorem State.toDPhase_tail (s : State) (p : DPhase) : (s.toDPhase p).tail = s.tail := rfl
@[simp] theorem State.toDPhase_headP (s : State) (p : DPhase) : (s.toDPhase p).headP = s.headP := rfl
@[simp] theorem State.toDPhase_tailC (s : State) (p : DPhase) : (s.toDPhase p).tailC = s.tailC := rfl
@[simp] theorem State.toDPhase_dec (s : State) (p : DPhase) : (s.toDPhase p).dec = { s.dec with phase := p } := rfl
@[simp] theorem State.toDPhase_enc (s : State) (p : DPhase) : (s.toDPhase p).enc = s.enc := rfl
@[simp] theorem State.toDPhase_port (s : State) (p : DPhase) : (s.toDPhase p).port = s.port := rfl
@[simp] theorem State.toDPhase_sched (s : State) (p : DPhase) : (s.toDPhase p).sched = s.sched := rfl
@[simp] theorem State.toDPhase_tick (s : State) (p : DPhase) : (s.toDPhase p).tick = s.tick := rfl

/-! ### setLenHi -/

@[simp] theorem State.setLenHi_cfg (s : State) (b : Byte) : (s.setLenHi b).cfg = s.cfg := rfl
@[simp] theorem State.setLenHi_ring (s : State) (b : Byte) : (s.setLenHi b).ring = s.ring := rfl
@[simp] theorem State.setLenHi_head (s : State) (b : Byte) : (s.setLenHi b).head = s.head := rfl
@[simp] theorem State.setLenHi_tail (s : State) (b : Byte) : (s.setLenHi b).tail = s.tail := rfl
@[simp] theorem State.setLenHi_headP (s : State) (b : Byte) : (s.setLenHi b).headP = s.headP := rfl
@[simp] theorem State.setLenHi_tailC (s : State) (b : Byte) : (s.setLenHi b).tailC = s.tailC := rfl
@[simp] theorem State.setLenHi_dec (s : State) (b : Byte) : (s.setLenHi b).dec = { s.dec with len := be16 b 0 } := rfl
@[simp] theorem State.setLenHi_enc (s : State) (b : Byte) : (s.setLenHi b).enc = s.enc := rfl
@[simp] theorem State.setLenHi_port (s : State) (b : Byte) : (s.setLenHi b).port = s.port := rfl
@[simp] theorem State.setLenHi_sched (s : State) (b : Byte) : (s.setLenHi b).sched = s.sched := rfl
@[simp] theorem State.setLenHi_tick (s : State) (b : Byte) : (s.setLenHi b).tick = s.tick := rfl

/-! ### addLenLo -/

@[simp] theorem State.addLenLo_cfg (s : State) (b : Byte) : (s.addLenLo b).cfg = s.cfg := rfl
@[simp] theorem State.addLenLo_ring (s : State) (b : Byte) : (s.addLenLo b).ring = s.ring := rfl
@[simp] theorem State.addLenLo_head (s : State) (b : Byte) : (s.addLenLo b).head = s.head := rfl
@[simp] theorem State.addLenLo_tail (s : State) (b : Byte) : (s.addLenLo b).tail = s.tail := rfl
@[simp] theorem State.addLenLo_headP (s : State) (b : Byte) : (s.addLenLo b).headP = s.headP := rfl
@[simp] theorem State.addLenLo_tailC (s : State) (b : Byte) : (s.addLenLo b).tailC = s.tailC := rfl
@[simp] theorem State.addLenLo_dec (s : State) (b : Byte) :
    (s.addLenLo b).dec =
      { s.dec with len := s.dec.len + b.setWidth 16, pos := 0 } := rfl
@[simp] theorem State.addLenLo_enc (s : State) (b : Byte) : (s.addLenLo b).enc = s.enc := rfl
@[simp] theorem State.addLenLo_port (s : State) (b : Byte) : (s.addLenLo b).port = s.port := rfl
@[simp] theorem State.addLenLo_sched (s : State) (b : Byte) : (s.addLenLo b).sched = s.sched := rfl
@[simp] theorem State.addLenLo_tick (s : State) (b : Byte) : (s.addLenLo b).tick = s.tick := rfl

/-! ### enterBody -/

@[simp] theorem State.enterBody_cfg (s : State) (p : DPath) (q : BitVec 16) : (s.enterBody p q).cfg = s.cfg := rfl
@[simp] theorem State.enterBody_ring (s : State) (p : DPath) (q : BitVec 16) : (s.enterBody p q).ring = s.ring := rfl
@[simp] theorem State.enterBody_head (s : State) (p : DPath) (q : BitVec 16) : (s.enterBody p q).head = s.head := rfl
@[simp] theorem State.enterBody_tail (s : State) (p : DPath) (q : BitVec 16) : (s.enterBody p q).tail = s.tail := rfl
@[simp] theorem State.enterBody_headP (s : State) (p : DPath) (q : BitVec 16) :
    (s.enterBody p q).headP =
      s.headP := rfl
@[simp] theorem State.enterBody_tailC (s : State) (p : DPath) (q : BitVec 16) :
    (s.enterBody p q).tailC =
      s.tailC := rfl
@[simp] theorem State.enterBody_dec (s : State) (p : DPath) (q : BitVec 16) :
    (s.enterBody p q).dec =
      { s.dec with path := p, plen := q, pos := 0, phase := .dBody } := rfl
@[simp] theorem State.enterBody_enc (s : State) (p : DPath) (q : BitVec 16) : (s.enterBody p q).enc = s.enc := rfl
@[simp] theorem State.enterBody_port (s : State) (p : DPath) (q : BitVec 16) : (s.enterBody p q).port = s.port := rfl
@[simp] theorem State.enterBody_sched (s : State) (p : DPath) (q : BitVec 16) :
    (s.enterBody p q).sched =
      s.sched := rfl
@[simp] theorem State.enterBody_tick (s : State) (p : DPath) (q : BitVec 16) : (s.enterBody p q).tick = s.tick := rfl

/-! ### advanceBody -/

@[simp] theorem State.advanceBody_cfg (s : State) : (s.advanceBody).cfg = s.cfg := rfl
@[simp] theorem State.advanceBody_ring (s : State) : (s.advanceBody).ring = s.ring := rfl
@[simp] theorem State.advanceBody_head (s : State) : (s.advanceBody).head = s.head := rfl
@[simp] theorem State.advanceBody_tail (s : State) : (s.advanceBody).tail = s.tail := rfl
@[simp] theorem State.advanceBody_headP (s : State) : (s.advanceBody).headP = s.headP := rfl
@[simp] theorem State.advanceBody_tailC (s : State) : (s.advanceBody).tailC = s.tailC := rfl
@[simp] theorem State.advanceBody_dec (s : State) :
    (s.advanceBody).dec =
      { s.dec with pos := s.dec.pos + 1, phase := if s.dec.pos + 1 = s.dec.len then .dCksum else .dBody } := rfl
@[simp] theorem State.advanceBody_enc (s : State) : (s.advanceBody).enc = s.enc := rfl
@[simp] theorem State.advanceBody_port (s : State) : (s.advanceBody).port = s.port := rfl
@[simp] theorem State.advanceBody_sched (s : State) : (s.advanceBody).sched = s.sched := rfl
@[simp] theorem State.advanceBody_tick (s : State) : (s.advanceBody).tick = s.tick := rfl

/-! ### countSkip -/

@[simp] theorem State.countSkip_cfg (s : State) : (s.countSkip).cfg = s.cfg := rfl
@[simp] theorem State.countSkip_ring (s : State) : (s.countSkip).ring = s.ring := rfl
@[simp] theorem State.countSkip_head (s : State) : (s.countSkip).head = s.head := rfl
@[simp] theorem State.countSkip_tail (s : State) : (s.countSkip).tail = s.tail := rfl
@[simp] theorem State.countSkip_headP (s : State) : (s.countSkip).headP = s.headP := rfl
@[simp] theorem State.countSkip_tailC (s : State) : (s.countSkip).tailC = s.tailC := rfl
@[simp] theorem State.countSkip_dec (s : State) :
    (s.countSkip).dec =
      { s.dec with rem := s.dec.rem - 1, phase := if s.dec.rem - 1 = 0 then .dSync else .dSkip } := rfl
@[simp] theorem State.countSkip_enc (s : State) : (s.countSkip).enc = s.enc := rfl
@[simp] theorem State.countSkip_port (s : State) : (s.countSkip).port = s.port := rfl
@[simp] theorem State.countSkip_sched (s : State) : (s.countSkip).sched = s.sched := rfl
@[simp] theorem State.countSkip_tick (s : State) : (s.countSkip).tick = s.tick := rfl

/-! ### toEPhase -/

@[simp] theorem State.toEPhase_cfg (s : State) (p : EPhase) : (s.toEPhase p).cfg = s.cfg := rfl
@[simp] theorem State.toEPhase_ring (s : State) (p : EPhase) : (s.toEPhase p).ring = s.ring := rfl
@[simp] theorem State.toEPhase_head (s : State) (p : EPhase) : (s.toEPhase p).head = s.head := rfl
@[simp] theorem State.toEPhase_tail (s : State) (p : EPhase) : (s.toEPhase p).tail = s.tail := rfl
@[simp] theorem State.toEPhase_headP (s : State) (p : EPhase) : (s.toEPhase p).headP = s.headP := rfl
@[simp] theorem State.toEPhase_tailC (s : State) (p : EPhase) : (s.toEPhase p).tailC = s.tailC := rfl
@[simp] theorem State.toEPhase_dec (s : State) (p : EPhase) : (s.toEPhase p).dec = s.dec := rfl
@[simp] theorem State.toEPhase_enc (s : State) (p : EPhase) : (s.toEPhase p).enc = { s.enc with phase := p } := rfl
@[simp] theorem State.toEPhase_port (s : State) (p : EPhase) : (s.toEPhase p).port = s.port := rfl
@[simp] theorem State.toEPhase_sched (s : State) (p : EPhase) : (s.toEPhase p).sched = s.sched := rfl
@[simp] theorem State.toEPhase_tick (s : State) (p : EPhase) : (s.toEPhase p).tick = s.tick := rfl

/-! ### reply -/

@[simp] theorem State.reply_cfg (s : State) (r : CmdStatus) : (s.reply r).cfg = s.cfg := rfl
@[simp] theorem State.reply_ring (s : State) (r : CmdStatus) : (s.reply r).ring = s.ring := rfl
@[simp] theorem State.reply_head (s : State) (r : CmdStatus) : (s.reply r).head = s.head := rfl
@[simp] theorem State.reply_tail (s : State) (r : CmdStatus) : (s.reply r).tail = s.tail := rfl
@[simp] theorem State.reply_headP (s : State) (r : CmdStatus) : (s.reply r).headP = s.headP := rfl
@[simp] theorem State.reply_tailC (s : State) (r : CmdStatus) : (s.reply r).tailC = s.tailC := rfl
@[simp] theorem State.reply_dec (s : State) (r : CmdStatus) : (s.reply r).dec = s.dec := rfl
@[simp] theorem State.reply_enc (s : State) (r : CmdStatus) : (s.reply r).enc = s.enc := rfl
@[simp] theorem State.reply_port (s : State) (r : CmdStatus) :
    (s.reply r).port =
      { s.port with cmds := s.port.cmds.tail, cmdStatus := some r } := rfl
@[simp] theorem State.reply_sched (s : State) (r : CmdStatus) : (s.reply r).sched = s.sched := rfl
@[simp] theorem State.reply_tick (s : State) (r : CmdStatus) : (s.reply r).tick = s.tick := rfl

/-! ### advanceSend -/

@[simp] theorem State.advanceSend_cfg (s : State) : (s.advanceSend).cfg = s.cfg := rfl
@[simp] theorem State.advanceSend_ring (s : State) : (s.advanceSend).ring = s.ring := rfl
@[simp] theorem State.advanceSend_head (s : State) : (s.advanceSend).head = s.head := rfl
@[simp] theorem State.advanceSend_tail (s : State) : (s.advanceSend).tail = s.tail := rfl
@[simp] theorem State.advanceSend_headP (s : State) : (s.advanceSend).headP = s.headP := rfl
@[simp] theorem State.advanceSend_tailC (s : State) : (s.advanceSend).tailC = s.tailC := rfl
@[simp] theorem State.advanceSend_dec (s : State) : (s.advanceSend).dec = s.dec := rfl
@[simp] theorem State.advanceSend_enc (s : State) :
    (s.advanceSend).enc =
      { s.enc with pos := s.enc.pos + 1, phase := if s.enc.pos + 1 = s.enc.len then .eCksum else .eBody } := rfl
@[simp] theorem State.advanceSend_port (s : State) : (s.advanceSend).port = s.port := rfl
@[simp] theorem State.advanceSend_sched (s : State) : (s.advanceSend).sched = s.sched := rfl
@[simp] theorem State.advanceSend_tick (s : State) : (s.advanceSend).tick = s.tick := rfl

/-! ### offer -/

@[simp] theorem State.offer_cfg (s : State) (c : Command) : (s.offer c).cfg = s.cfg := by
  unfold State.offer; split <;> rfl
@[simp] theorem State.offer_ring (s : State) (c : Command) : (s.offer c).ring = s.ring := by
  unfold State.offer; split <;> rfl
@[simp] theorem State.offer_head (s : State) (c : Command) : (s.offer c).head = s.head := by
  unfold State.offer; split <;> rfl
@[simp] theorem State.offer_tail (s : State) (c : Command) : (s.offer c).tail = s.tail := by
  unfold State.offer; split <;> rfl
@[simp] theorem State.offer_headP (s : State) (c : Command) : (s.offer c).headP = s.headP := by
  unfold State.offer; split <;> rfl
@[simp] theorem State.offer_tailC (s : State) (c : Command) : (s.offer c).tailC = s.tailC := by
  unfold State.offer; split <;> rfl
@[simp] theorem State.offer_dec (s : State) (c : Command) : (s.offer c).dec = s.dec := by
  unfold State.offer; split <;> rfl
@[simp] theorem State.offer_enc (s : State) (c : Command) : (s.offer c).enc = s.enc := by
  unfold State.offer; split <;> rfl
@[simp] theorem State.offer_sched (s : State) (c : Command) : (s.offer c).sched = s.sched := by
  unfold State.offer; split <;> rfl
@[simp] theorem State.offer_tick (s : State) (c : Command) : (s.offer c).tick = s.tick := by
  unfold State.offer; split <;> rfl
/-- A command joins the waiting ones, unless the block is in reset. -/
@[simp] theorem State.offer_port (s : State) (c : Command) :
    (s.offer c).port = if s.port.rst then s.port else { s.port with cmds := s.port.cmds ++ [c] } := by
  unfold State.offer; split <;> rfl
/-- In reset a command is lost. -/
theorem State.offer_in_reset {s : State} (h : s.port.rst = true) (c : Command) : s.offer c = s := by
  simp [State.offer, h]
theorem State.offer_outside_reset {s : State} (h : s.port.rst = false) (c : Command) :
    s.offer c = { s with port := { s.port with cmds := s.port.cmds ++ [c] } } := by
  simp [State.offer, h]

/-! ### syncViews and raise -/

@[simp] theorem State.syncViews_cfg (s : State) (a b : Bool) : (s.syncViews a b).cfg = s.cfg := by
  unfold State.syncViews; split <;> rfl
@[simp] theorem State.syncViews_ring (s : State) (a b : Bool) : (s.syncViews a b).ring = s.ring := by
  unfold State.syncViews; split <;> rfl
@[simp] theorem State.syncViews_head (s : State) (a b : Bool) : (s.syncViews a b).head = s.head := by
  unfold State.syncViews; split <;> rfl
@[simp] theorem State.syncViews_tail (s : State) (a b : Bool) : (s.syncViews a b).tail = s.tail := by
  unfold State.syncViews; split <;> rfl
@[simp] theorem State.syncViews_dec (s : State) (a b : Bool) : (s.syncViews a b).dec = s.dec := by
  unfold State.syncViews; split <;> rfl
@[simp] theorem State.syncViews_enc (s : State) (a b : Bool) : (s.syncViews a b).enc = s.enc := by
  unfold State.syncViews; split <;> rfl
@[simp] theorem State.syncViews_port (s : State) (a b : Bool) : (s.syncViews a b).port = s.port := by
  unfold State.syncViews; split <;> rfl
@[simp] theorem State.syncViews_sched (s : State) (a b : Bool) : (s.syncViews a b).sched = s.sched := by
  unfold State.syncViews; split <;> rfl
@[simp] theorem State.syncViews_tick (s : State) (a b : Bool) : (s.syncViews a b).tick = s.tick := by
  unfold State.syncViews; split <;> rfl

/-- Raising a failure delivers its event and moves the phase; nothing else changes (R176). -/
theorem State.raise_eq (s : State) (k : Failure) (ty : Byte) :
    s.raise k ty =
      { s.emit (k.event ty s.dec.len) with
        dec := if k = .checksumFail then { s.dec with phase := .dSync }
          else { s.dec with phase := .dSkip, rem := s.dec.len.setWidth 17 + 1 } } := by
  cases k <;> rfl

/-! ### The views of the ring (R14, R90, R99) -/

theorem State.tailView_synchronised (s : State) (h : s.cfg.cdc = .synchronised) : s.tailView = s.tailC := by
  simp [State.tailView, h]

theorem State.tailView_atomic (s : State) (h : s.cfg.cdc = .atomic) : s.tailView = s.tail := by
  simp [State.tailView, h]

theorem State.headView_synchronised (s : State) (h : s.cfg.cdc = .synchronised) : s.headView = s.headP := by
  simp [State.headView, h]

theorem State.headView_atomic (s : State) (h : s.cfg.cdc = .atomic) : s.headView = s.head := by
  simp [State.headView, h]

/-- What a SYNC step leaves in the decoder's view, in both modes. -/
@[simp] theorem State.syncViews_tailView (s : State) (a b : Bool) :
    (s.syncViews a b).tailView = if a then s.tail else s.tailView := by
  unfold State.tailView State.syncViews
  cases h : s.cfg.cdc <;> simp [h]

/-- What a SYNC step leaves in the producer's view, in both modes. -/
@[simp] theorem State.syncViews_headView (s : State) (a b : Bool) :
    (s.syncViews a b).headView = if b then s.head else s.headView := by
  unfold State.headView State.syncViews
  cases h : s.cfg.cdc <;> simp [h]

theorem State.avail_iff (s : State) : s.avail = true ↔ s.head ≠ s.tailView := by
  simp [State.avail]

theorem State.fullP_iff (s : State) : s.fullP = true ↔ s.tail + 1 = s.headView := by
  simp [State.fullP]

end Sys2Proof.Machine
end

