-- ==== Sys2Proof/Laws/Steps.lean ====
section
/-! SUPPORT. What the shared operations can do, said once each: sequences, the agents' steps, RUN, received bytes, and how
the ring operations move the ring's invariant. -/

namespace Sys2Proof.Machine

/-! ### Sequences -/

@[simp] theorem andThen_next (s : State) (f : State → Host.Outcome State Fault Refusal) : andThen (.next s) f = f s := rfl

/-- A sequence that answers a next state went through one. -/
theorem andThen_eq_next {o : Host.Outcome State Fault Refusal} {f : State → Host.Outcome State Fault Refusal} {t : State}
    (h : andThen o f = .next t) : ∃ u, o = .next u ∧ f u = .next t := by
  cases o with
  | next u => exact ⟨u, rfl, h⟩
  | fault r => cases h
  | refused r => cases h

theorem andThen_assoc (o : Host.Outcome State Fault Refusal) (f g : State → Host.Outcome State Fault Refusal) :
    andThen (andThen o f) g = andThen o fun s => andThen (f s) g := by
  cases o <;> rfl

/-! ### The agents' steps are operations of the table -/

theorem decoderStep_eq_exec (s : State) : decoderStep s = exec (decoderInstr s) s := by
  unfold decoderStep decoderInstr
  cases s.dec.phase <;> try rfl
  dsimp only
  split <;> rfl

theorem encoderStep_eq_exec (s : State) : encoderStep s = exec (encoderInstr s) s := by
  unfold encoderStep encoderInstr
  cases s.enc.phase <;> rfl

/-- A byte that arrives in reset is lost (R174, R201). -/
theorem rxInterrupt_in_reset {b : Byte} {s : State} (hr : s.port.rst = true) : rxInterrupt b s = .next s := by
  simp [rxInterrupt, hr]

theorem rxInterrupt_of_full {b : Byte} {s : State} (hr : s.port.rst = false) (h : s.fullP = true) :
    rxInterrupt b s = .next (s.dropByte b) := by
  simp [rxInterrupt, execPushDrop, hr, h]

theorem rxInterrupt_of_not_full {b : Byte} {s : State} (hr : s.port.rst = false) (h : s.fullP = false) :
    rxInterrupt b s = .next (s.pushByte b) := by
  simp [rxInterrupt, execPush, hr, h]

/-! ### The SYNC agent's turns -/

@[simp] theorem copiesTail_both : copiesTail .both = true := rfl
@[simp] theorem copiesTail_tailOnly : copiesTail .tailOnly = true := rfl
@[simp] theorem copiesTail_headOnly : copiesTail .headOnly = false := rfl
@[simp] theorem copiesHead_both : copiesHead .both = true := rfl
@[simp] theorem copiesHead_headOnly : copiesHead .headOnly = true := rfl
@[simp] theorem copiesHead_tailOnly : copiesHead .tailOnly = false := rfl

/-- A SYNC step does one or both of its assignments (R98). -/
theorem copiesTail_or_copiesHead (c : SyncCopies) : copiesTail c = true ∨ copiesHead c = true := by cases c <;> simp

/-! ### A presented turn is the one the step takes -/

@[simp] theorem fetchTurn_present (s : State) (t : Turn) : fetchTurn (s.present t) = (t, s) := rfl

/-- The step of a state with a presented turn, in the turn's own terms. -/
theorem step_present (s : State) (t : Turn) :
    step (s.present t) = match fetchInstr t s with
      | some p => exec p.1 p.2
      | none => surroundings t s := rfl

/-- A turn of the SYNC agent refreshes the views it names and nothing else. -/
theorem step_present_sync (s : State) (c : SyncCopies) :
    step (s.present (.sync c)) = .next (s.syncViews (copiesTail c) (copiesHead c)) := rfl

/-- The turn of a received byte is the receive interrupt, in every state. -/
theorem step_present_rx (s : State) (b : Byte) : step (s.present (.rx b)) = rxInterrupt b s := by
  rw [step_present]
  unfold rxInterrupt
  cases hr : s.port.rst <;> cases hf : s.fullP <;> simp [fetchInstr, surroundings, exec, hr, hf]

/-! ### RUN, sending and receiving, by induction -/

/-- What every enabled DECODER step keeps, RUN keeps. -/
theorem runDecoder_keeps {P : State → Prop}
    (hstep : ∀ s t, P s → s.decoderEnabled = true → decoderStep s = .next t → P t) :
    ∀ (n : Nat) (s t : State), P s → runDecoder n s = .next t → P t
  | 0, s, t, hs, h => by cases h; exact hs
  | n + 1, s, t, hs, h => by
    unfold runDecoder at h
    split at h
    · next he =>
      obtain ⟨u, hu, hr⟩ := andThen_eq_next h
      exact runDecoder_keeps hstep n u t (hstep s u hs he hu) hr
    · cases h; exact hs

/-- What every enabled ENCODER step keeps, a run of the ENCODER keeps. -/
theorem runEncoder_keeps {P : State → Prop}
    (hstep : ∀ s t, P s → s.encoderEnabled = true → encoderStep s = .next t → P t) :
    ∀ (n : Nat) (s t : State), P s → runEncoder n s = .next t → P t
  | 0, s, t, hs, h => by cases h; exact hs
  | n + 1, s, t, hs, h => by
    unfold runEncoder at h
    split at h
    · next he =>
      obtain ⟨u, hu, hr⟩ := andThen_eq_next h
      exact runEncoder_keeps hstep n u t (hstep s u hs he hu) hr
    · cases h; exact hs

/-- If every enabled DECODER step answers a next state that keeps `P`, so does RUN. -/
theorem runDecoder_completes {P : State → Prop}
    (hstep : ∀ s, P s → s.decoderEnabled = true → ∃ t, decoderStep s = .next t ∧ P t) :
    ∀ (n : Nat) (s : State), P s → ∃ t, runDecoder n s = .next t ∧ P t
  | 0, s, hs => ⟨s, rfl, hs⟩
  | n + 1, s, hs => by
    unfold runDecoder
    split
    · next he =>
      obtain ⟨u, hu, hpu⟩ := hstep s hs he
      rw [hu]
      exact runDecoder_completes hstep n u hpu
    · exact ⟨s, rfl, hs⟩

/-- If every enabled ENCODER step answers a next state that keeps `P`, so does a run of the ENCODER. -/
theorem runEncoder_completes {P : State → Prop}
    (hstep : ∀ s, P s → s.encoderEnabled = true → ∃ t, encoderStep s = .next t ∧ P t) :
    ∀ (n : Nat) (s : State), P s → ∃ t, runEncoder n s = .next t ∧ P t
  | 0, s, hs => ⟨s, rfl, hs⟩
  | n + 1, s, hs => by
    unfold runEncoder
    split
    · next he =>
      obtain ⟨u, hu, hpu⟩ := hstep s hs he
      rw [hu]
      exact runEncoder_completes hstep n u hpu
    · exact ⟨s, rfl, hs⟩

/-- If every received byte answers a next state that keeps `P`, so do all the bytes of a string. -/
theorem receiveBytes_completes {P : State → Prop} (hb : ∀ b s, P s → ∃ t, receiveByte b s = .next t ∧ P t) :
    ∀ (bs : List Byte) (s : State), P s → ∃ t, receiveBytes bs s = .next t ∧ P t
  | [], s, hs => ⟨s, rfl, hs⟩
  | b :: bs, s, hs => by
    obtain ⟨u, hu, hpu⟩ := hb b s hs
    unfold receiveBytes
    rw [hu]
    exact receiveBytes_completes hb bs u hpu

/-- What the four parts of a received byte keep, the byte keeps. -/
theorem receiveByte_completes {P : State → Prop} (b : Byte)
    (hrx : ∀ s, P s → ∃ t, rxInterrupt b s = .next t ∧ P t)
    (hsync : ∀ s, P s → P (s.syncViews true true))
    (hdec : ∀ s, P s → s.decoderEnabled = true → ∃ t, decoderStep s = .next t ∧ P t) (s : State) (hs : P s) :
    ∃ t, receiveByte b s = .next t ∧ P t := by
  obtain ⟨u, hu, hpu⟩ := hrx s hs
  obtain ⟨v, hv, hpv⟩ := runDecoder_completes hdec runFuel (u.syncViews true true) (hsync u hpu)
  refine ⟨v.syncViews true true, ?_, hsync v hpv⟩
  unfold receiveByte
  rw [hu]
  show andThen (runDecoder runFuel (u.syncViews true true)) (execSync true true) = _
  rw [hv]
  rfl

theorem receiveBytes_append (xs ys : List Byte) (s : State) :
    receiveBytes (xs ++ ys) s = andThen (receiveBytes xs s) (receiveBytes ys) := by
  induction xs generalizing s with
  | nil => rfl
  | cons x xs ih =>
    show andThen (receiveByte x s) (receiveBytes (xs ++ ys)) = andThen (andThen (receiveByte x s) (receiveBytes xs)) _
    rw [andThen_assoc]
    cases receiveByte x s with
    | next u => exact ih u
    | fault r => rfl
    | refused r => rfl

/-! ### The ring's invariant under the ring operations (R23) -/

/-- PUSH keeps the ring's invariant: a producer that does not see a full ring has room. -/
theorem RingInv_pushByte {s : State} (hi : s.RingInv) (hf : s.fullP = false) (b : Byte) : (s.pushByte b).RingInv := by
  obtain ⟨hw, _, h2, h3⟩ := hi
  have hne : s.tail + 1 ≠ s.headView := by simpa [State.fullP] using hf
  unfold State.count at h2 h3
  refine ⟨Memory.write_wf hw s.tail.isLt, ?_, ?_, ?_⟩ <;> unfold State.count State.tailView State.headView at * <;>
    cases hc : s.cfg.cdc <;> simp only [hc, State.pushByte_cfg, State.pushByte_tail, State.pushByte_head,
      State.pushByte_tailC, State.pushByte_headP] at * <;> bv_omega

/-- POP keeps the ring's invariant: a byte the decoder sees is there. -/
theorem RingInv_popByte {s : State} (hi : s.RingInv) (ha : s.avail = true) (feed : Bool) : (s.popByte feed).RingInv := by
  obtain ⟨hw, h1, h2, h3⟩ := hi
  have hne : s.head ≠ s.tailView := (State.avail_iff s).1 ha
  refine ⟨hw, ?_, ?_, ?_⟩ <;> unfold State.count State.tailView State.headView at * <;>
    cases hc : s.cfg.cdc <;> simp only [hc, State.popByte_cfg, State.popByte_tail, State.popByte_head,
      State.popByte_tailC, State.popByte_headP] at * <;> bv_omega

/-- SYNC keeps the ring's invariant. -/
theorem RingInv_syncViews {s : State} (hi : s.RingInv) (a b : Bool) : (s.syncViews a b).RingInv := by
  obtain ⟨hw, h1, h2, h3⟩ := hi
  have hc : (s.syncViews a b).count = s.count := by simp [State.count]
  refine ⟨by simpa using hw, hc ▸ h1, ?_, ?_⟩
  · rw [hc, State.syncViews_tailView, State.syncViews_head]
    split
    · exact Nat.le_refl _
    · exact h2
  · rw [hc, State.syncViews_headView, State.syncViews_head]
    split
    · simpa using h1
    · exact h3

/-- Under the ring's invariant a visible byte is an unread one. -/
theorem RingInv_count_pos {s : State} (hi : s.RingInv) (ha : s.avail = true) : 0 < s.count := by
  obtain ⟨_, _, h2, _⟩ := hi
  have hne : s.head ≠ s.tailView := (State.avail_iff s).1 ha
  have : (s.tailView - s.head).toNat ≠ 0 := by
    intro h
    exact hne (by bv_omega)
  omega

end Sys2Proof.Machine
end

