-- ==== Sys2Proof/Tests/Slice0.lean ====
section
/-! SUPPORT. The model's own tests. Expected values are the vectors and programs of spec/95_test_vectors.md (V…, P…) or hand
calculation from the rule named; `witness_…` theorems show states and operands that meet the hypotheses of the statements
in Certificates/Slice0/Obligations.lean. -/

namespace Sys2Proof.Machine.Tests

/-- Bytes from numbers. -/
def bytes (l : List Nat) : List Byte := l.map (BitVec.ofNat 8)

/-- What an outcome leaves, seen through `f`. -/
def see {α : Type} (o : Host.Outcome State Fault Refusal) (f : State → α) : Option α :=
  match o with
  | .next s => some (f s)
  | .fault _ => none
  | .refused _ => none

/-- The reset state with the unread bytes `bs` at index `h`, all of them visible. -/
def unreadAt (h : Nat) (bs : List Byte) : State :=
  { State.reset with
    ring := Memory.writeList [] h bs, head := BitVec.ofNat 8 h, headP := BitVec.ofNat 8 h,
    tail := BitVec.ofNat 8 (h + bs.length), tailC := BitVec.ofNat 8 (h + bs.length) }

/-- A state with another decoder. -/
def withDec (s : State) (f : DecoderState → DecoderState) : State := { s with dec := f s.dec }

/-- A state with another encoder. -/
def withEnc (s : State) (f : EncoderState → EncoderState) : State := { s with enc := f s.enc }

/-- A state with a command on the port. -/
def withCmd (s : State) (c : Command) : State := s.offer c

/-- A state with `CDC_MODE = atomic`. -/
def atomicOf (s : State) : State := { s with cfg := { s.cfg with cdc := .atomic } }

/-- A state with `ev_ready` low. -/
def holding (s : State) : State := { s with port := { s.port with evReady := false } }

/-- A state with `tx_ready` low. -/
def stalled (s : State) : State := { s with port := { s.port with txReady := false } }

/-- A state with turns to come. -/
def withTurns (s : State) (ts : List Turn) : State := { s with sched := ts }

/-! ### WellFormed refuses what does not fit (R63 to R72) -/

set_option maxRecDepth 4000 in
theorem test_wf_encTx : WellFormed .default (.encTx 0 0 0 0 0 (List.replicate 241 0)) = true := by decide

set_option maxRecDepth 4000 in
theorem test_wf_encTx_refused : WellFormed .default (.encTx 0 0 0 0 0 (List.replicate 242 0)) = false := by decide

theorem test_wf_decRx_refused : WellFormed { cdc := .atomic, rxpMax := 1 } (.decRx 0 0 0 [1, 2] 0) = false := by decide
theorem test_wf_decAtresp_refused : WellFormed { cdc := .atomic, rxpMax := 1 } (.decAtresp 0 0 0 0 [1, 2] 0) = false := by
  decide
theorem test_wf_decSkip_extent_refused : WellFormed .default (.decSkip 2 0x95 [1]) = false := by decide
theorem test_wf_decSkip_decodable_refused : WellFormed .default (.decSkip 2 0x8A [1, 2]) = false := by decide
theorem test_wf_sync_refused : WellFormed .default (.sync false false) = false := by decide

/-! ### Decoding: words written out from the layouts (R63 to R68) -/

/-- V1. -/
theorem test_decode_encAt :
    decode .default .sent (bytes [0x7E, 0x00, 0x04, 0x08, 0x01, 0x41, 0x49, 0x6C]) = .ok (.encAt 0x01 0x41 0x49, []) := by rfl

/-- V2. -/
theorem test_decode_encTx :
    decode .default .sent (bytes [0x7E, 0x00, 0x16, 0x10, 0x01, 0x00, 0x13, 0xA2, 0x00, 0x40, 0x0A, 0x01, 0x27, 0xFF, 0xFE, 0x00,
      0x00, 0x54, 0x78, 0x44, 0x61, 0x74, 0x61, 0x30, 0x41, 0x13]) =
    .ok (.encTx 0x01 0x0013A200400A0127 0xFFFE 0x00 0x00 (bytes [0x54, 0x78, 0x44, 0x61, 0x74, 0x61, 0x30, 0x41]), []) := by rfl

/-- V3. -/
theorem test_decode_decRx :
    decode .default .received (bytes [0x7E, 0x00, 0x12, 0x90, 0x00, 0x13, 0xA2, 0x00, 0x40, 0x52, 0x2B, 0xAA, 0x7D, 0x84, 0x01,
      0x52, 0x78, 0x44, 0x61, 0x74, 0x61, 0x0D]) =
    .ok (.decRx 0x0013A20040522BAA 0x7D84 0x01 (bytes [0x52, 0x78, 0x44, 0x61, 0x74, 0x61]) 0x0D, []) := by rfl

/-- V8. -/
theorem test_decode_decAtresp :
    decode .default .received (bytes [0x7E, 0x00, 0x07, 0x88, 0x02, 0x4D, 0x59, 0x00, 0x12, 0x34, 0x89]) =
    .ok (.decAtresp 0x02 0x4D 0x59 0x00 [0x12, 0x34] 0x89, []) := by rfl

/-- V5, with a byte of the next frame behind it. -/
theorem test_decode_decModem :
    decode .default .received (bytes [0x7E, 0x00, 0x02, 0x8A, 0x06, 0x6F, 0x7E]) = .ok (.decModem 0x06 0x6F, [0x7E]) := by rfl

/-- V6b. -/
theorem test_decode_decTxstat :
    decode .default .received (bytes [0x7E, 0x00, 0x07, 0x8B, 0x01, 0xFF, 0xFD, 0x03, 0x21, 0x00, 0x53]) =
    .ok (.decTxstat 0x01 0xFFFD 0x03 0x21 0x00 0x53, []) := by rfl

/-- V7. -/
theorem test_decode_decSkip :
    decode .default .received (bytes [0x7E, 0x00, 0x04, 0x95, 0xAA, 0xBB, 0xCC, 0x39]) =
    .ok (.decSkip 4 0x95 (bytes [0xAA, 0xBB, 0xCC, 0x39]), []) := by rfl

/-- V15: a known type with an illegal Length is the last row's (R71). -/
theorem test_decode_badLength :
    decode .default .received (bytes [0x7E, 0x00, 0x03, 0x8A, 0x06, 0x00, 0x6F]) = .ok (.decSkip 3 0x8A [0x06, 0x00, 0x6F], []) := by
  rfl

/-- V7c: a sent type is unknown on the receive side (R70). -/
theorem test_decode_looped :
    decode .default .received (bytes [0x7E, 0x00, 0x04, 0x08, 0x01, 0x41, 0x49, 0x6C]) =
    .ok (.decSkip 4 0x08 [0x01, 0x41, 0x49, 0x6C], []) := by rfl

theorem test_decode_noMarker : decode .default .received [0x00, 0x13] = .error .noMarker := by rfl
theorem test_decode_truncated : decode .default .received [0x7E, 0, 2, 0x8A, 6] = .error .truncated := by rfl
theorem test_decode_noRow : decode .default .sent [0x7E, 0, 2, 0x8A, 6, 0x6F] = .error .noRow := by rfl

/-- The receive rows but the last exclude one another (R71). -/
theorem test_rows_disjoint :
    (rows.take 6).Pairwise fun a b => a.value &&& (a.mask &&& b.mask) ≠ b.value &&& (a.mask &&& b.mask) := by decide

/-- R71: the header word `7E 00 04 08`, the delimiter in the highest byte. -/
theorem test_tableWord_encAt : decodeTableWord 32 0x7E000408 = some (.encAt 0 0 0) := by rfl

/-! ### The ring (R91 to R98) -/

/-- V20. -/
theorem test_push : see (execPush 0x7E (unreadAt 3 [])) (fun s => (s.ring.read 3, s.tail, s.avail)) = some (0x7E, 4, false) := by
  decide

/-- V22: the index wraps. -/
theorem test_push_wraps : see (execPush 0xAB (unreadAt 255 [])) (fun s => (s.ring.read 255, s.tail)) = some (0xAB, 0) := by decide

/-- The state of V21: 255 unread bytes. -/
def fullRing : State := { State.reset with tail := 255, tailC := 255 }

/-- V21. -/
theorem test_pushDrop : see (execPushDrop 0x55 fullRing) (fun s => (s.tail, s.port.rxDrops)) = some (255, [0x55]) := by decide

/-- The state of V24 and V25. -/
def v24 : State := withDec (unreadAt 9 [0xF0, 0, 0]) fun d => { d with rxSum := 0x20 }

/-- V24. -/
theorem test_pop_feeds :
    see (execPop true v24) (fun s => (s.port.ret, s.head, s.dec.rxSum)) = some (some (.byte 0xF0), 10, 0x10) := by decide

/-- V25. -/
theorem test_pop_no_feed :
    see (execPop false v24) (fun s => (s.port.ret, s.head, s.dec.rxSum)) = some (some (.byte 0xF0), 10, 0x20) := by decide

/-- V26. -/
theorem test_peek : see (execPeek v24) (fun s => (s.port.ret, s.head)) = some (some (.byte 0xF0), 9) := by decide

/-- V28. -/
theorem test_pop_waits : see (execPop true (unreadAt 7 [])) id = some (unreadAt 7 []) := by decide

/-- The state of V27. -/
def v27 : State := { State.reset with head := 7, headP := 7, tailC := 7, tail := 9 }

/-- V27, before SYNC. -/
theorem test_available_stale : see (execAvailable v27) (fun s => s.port.ret) = some (some (.flag false)) := by decide

/-- V27, SYNC. -/
theorem test_sync : see (execSync true true v27) (fun s => (s.tailC, s.avail)) = some (9, true) := by decide

/-- R98: one of the two assignments alone. -/
theorem test_sync_one : see (execSync false true { v27 with headP := 0 }) (fun s => (s.tailC, s.headP)) = some (7, 7) := by decide

/-- P7, synchronised: the stale view drops the byte that the atomic mode keeps. -/
theorem test_stale_view_drops :
    ({ fullRing with head := 1 } : State).fullP = true ∧ (atomicOf { fullRing with head := 1 }).fullP = false := by decide

/-! ### The DECODER's phases (R131 to R148) -/

theorem test_dSyncDiscard : see (execDSyncDiscard (unreadAt 0 [0x13, 0x7E])) (fun s => (s.head, s.dec.phase)) = some (1, .dSync) := by
  decide

theorem test_dSyncMarker : see (execDSyncMarker (unreadAt 0 [0x7E])) (fun s => (s.head, s.dec.phase)) = some (1, .dLenHi) := by
  decide

/-- P8: `7E 00` is the Length 32256. -/
def lenHiState : State := withDec (unreadAt 1 [0x7E, 0x01]) fun d => { d with phase := .dLenHi, rxSum := 5 }

theorem test_dLenHi : see (execDLenHi lenHiState) (fun s => (s.dec.len, s.dec.phase, s.dec.rxSum)) = some (0x7E00, .dLenLo, 5) := by
  decide

def lenLoState : State := withDec (unreadAt 2 [0x12]) fun d => { d with phase := .dLenLo, len := 0x0100, rxSum := 5, pos := 3 }

theorem test_dLenLo :
    see (execDLenLo lenLoState) (fun s => (s.dec.len, s.dec.phase, s.dec.rxSum, s.dec.pos)) = some (0x0112, .dType, 0, 0) := by decide

/-- A decoder in D_TYPE with a Length and a peeked byte. -/
def typeState (ty : Byte) (len : Half) : State := withDec (unreadAt 3 [ty]) fun d => { d with phase := .dType, len := len }

/-- V3: `L = 18` gives a payload of 6. -/
theorem test_dType_rx :
    see (execDType (typeState 0x90 18)) (fun s => (s.dec.phase, s.dec.path, s.dec.plen, s.head)) = some (.dBody, .rx, 6, 3) := by decide

/-- V17: BAD_LENGTH, then `L + 1` bytes to skip. -/
theorem test_dType_badLength :
    see (execDType (typeState 0x8B 2)) (fun s => (s.port.events, s.dec.phase, s.dec.rem)) =
      some ([.badLength 0x8B 2], .dSkip, 3) := by decide

/-- The Length 65535 leaves 65536 bytes to skip (R16). -/
theorem test_dType_longest :
    see (execDType (typeState 0x02 0xFFFF)) (fun s => (s.port.events, s.dec.rem)) = some ([.unknownType 0x02 0xFFFF], 65536) := by decide

/-- A decoder inside a body. -/
def bodyState (p : DPath) (len pos : Nat) (b : Byte) : State :=
  withDec (unreadAt 5 [b]) fun d =>
    { d with phase := .dBody, path := p, len := BitVec.ofNat 16 len, pos := BitVec.ofNat 16 pos, rxSum := 0x8A, addr64 := 0xA1,
             addr16 := 0xFF, plen := BitVec.ofNat 16 (len - 12) }

/-- P5 and R69: a second address byte shifts the first one up. -/
theorem test_dBody_address :
    see (execDBody (bodyState .rx 18 2 0xB2)) (fun s => (s.dec.addr64, s.dec.rxSum, s.dec.pos, s.head)) =
      some (0xA1B2, 0x3C, 3, 6) := by decide

/-- P10: the last body byte of a modem status. -/
theorem test_dBody_last :
    see (execDBody (bodyState .modem 2 1 0x06)) (fun s => (s.dec.status, s.dec.rxSum, s.dec.phase)) = some (0x06, 0x90, .dCksum) := by
  decide

/-- A decoder at the checksum byte of V5. -/
def cksumState (c : Byte) : State :=
  withDec (unreadAt 5 [c]) fun d => { d with phase := .dCksum, path := .modem, len := 2, pos := 2, rxSum := 0x90, status := 0x06 }

/-- V5. -/
theorem test_dCksum_ok :
    see (execDCksum (cksumState 0x6F)) (fun s => (s.port.events, s.dec.phase, s.dec.rxSum)) =
      some ([.modemStatus 0x06], .dSync, 0xFF) := by decide

/-- V13, offset 10. -/
theorem test_dCksum_fail :
    see (execDCksum (cksumState 0x6E)) (fun s => (s.port.events, s.dec.phase)) = some ([.checksumFail 0x8A 2], .dSync) := by decide

/-- A decoder that skips. -/
def skipState (rem : BitVec 17) : State := withDec (unreadAt 5 [0x7E]) fun d => { d with phase := .dSkip, rem := rem }

theorem test_dSkip : see (execDSkip (skipState 65536)) (fun s => (s.dec.rem, s.dec.phase, s.head)) = some (65535, .dSkip, 6) := by decide

theorem test_dSkip_last : see (execDSkip (skipState 1)) (fun s => (s.dec.rem, s.dec.phase)) = some (0, .dSync) := by decide

/-! ### The ENCODER's phases (R111 to R116) -/

/-- R111's example. -/
theorem test_cmdAccept :
    see (execCmdAccept (withCmd State.reset (.atFrame 1 0x41 0x49)))
      (fun s => (s.enc.phase, s.enc.kind, s.enc.len, s.port.cmdStatus, s.port.cmds)) =
      some (.eStart, .atCmd, 4, some .accepted, []) := by decide

set_option maxRecDepth 4000 in
/-- V12. -/
theorem test_cmdAccept_rejects :
    see (execCmdAccept (withCmd State.reset (.txFrame 1 0 0 0 0 (List.replicate 242 0))))
      (fun s => (s.enc.phase, s.port.cmdStatus, s.port.txOut)) = some (.eIdle, some .rejected, []) := by decide

/-- An encoder inside the frame of V1b, `ENC_AT id=02 cmd="MY"`. -/
def sending (p : EPhase) (pos : Nat) (sum : Byte) : State :=
  withEnc State.reset fun e =>
    { e with phase := p, kind := .atCmd, len := 4, pos := BitVec.ofNat 16 pos, txSum := sum, atId := 0x02, atC1 := 0x4D, atC2 := 0x59 }

theorem test_eStart : see (execEStart (sending .eStart 0 9)) (fun s => (s.port.txOut, s.enc.phase)) = some ([0x7E], .eLenHi) := by
  decide

theorem test_eLen_hi : see (execELen (sending .eLenHi 0 9)) (fun s => (s.port.txOut, s.enc.phase)) = some ([0x00], .eLenLo) := by
  decide

theorem test_eLen_lo :
    see (execELen (sending .eLenLo 0 9)) (fun s => (s.port.txOut, s.enc.phase, s.enc.txSum)) = some ([0x04], .eBody, 0) := by decide

/-- V1b: the running sum after `4D` is 0x57. -/
theorem test_eBody :
    see (execEBody (sending .eBody 2 0x0A)) (fun s => (s.port.txOut, s.enc.txSum, s.enc.phase)) = some ([0x4D], 0x57, .eBody) := by
  decide

/-- V1b: the last letter. -/
theorem test_eBody_last :
    see (execEBody (sending .eBody 3 0x57)) (fun s => (s.port.txOut, s.enc.txSum, s.enc.phase)) = some ([0x59], 0xB0, .eCksum) := by
  decide

/-- V1b. -/
theorem test_eCksum :
    see (execECksum (sending .eCksum 4 0xB0)) (fun s => (s.port.txOut, s.enc.txSum, s.enc.phase)) = some ([0x4F], 0xB0, .eIdle) := by
  decide

/-! ### Whole frames -/

/-- V12b: payload bytes 0x7E are sent as they are. -/
theorem test_encTx :
    see (execEncTx 0x07 0 0xFFFE 0 0 [0x7E, 0x11, 0x13] State.reset) (fun s => (s.port.txOut, s.enc.txSum)) =
      some (bytes [0x7E, 0x00, 0x11, 0x10, 0x07, 0, 0, 0, 0, 0, 0, 0, 0, 0xFF, 0xFE, 0, 0, 0x7E, 0x11, 0x13, 0x49], 0xB6) := by decide

/-- V1. -/
theorem test_encAt :
    see (execEncAt 0x01 0x41 0x49 State.reset) (fun s => (s.port.txOut, s.enc.txSum)) =
      some (bytes [0x7E, 0x00, 0x04, 0x08, 0x01, 0x41, 0x49, 0x6C], 0x93) := by decide

/-- V3. -/
theorem test_decRx :
    see (execDecRx 0x0013A20040522BAA 0x7D84 0x01 (bytes [0x52, 0x78, 0x44, 0x61, 0x74, 0x61]) 0x0D State.reset)
      (fun s => (s.port.events, s.head, s.dec.rxSum)) =
      some ([.rxData 0x0013A20040522BAA 0x7D84 0x01 (bytes [0x52, 0x78, 0x44, 0x61, 0x74, 0x61])], 22, 0xFF) := by decide

/-- V18: `RXP_MAX = 4`. -/
theorem test_oversize :
    see (execDecSkip 18 0x90 (bytes [0x00, 0x13, 0xA2, 0x00, 0x40, 0x52, 0x2B, 0xAA, 0x7D, 0x84, 0x01, 0x52, 0x78, 0x44, 0x61, 0x74,
      0x61, 0x0D]) { State.reset with cfg := { cdc := .synchronised, rxpMax := 4 } }) (fun s => (s.port.events, s.head, s.dec.phase)) =
      some ([.oversize 0x90 18], 22, .dSync) := by decide

/-- V8. -/
theorem test_decAtresp :
    see (execDecAtresp 0x02 0x4D 0x59 0x00 [0x12, 0x34] 0x89 State.reset) (fun s => (s.port.events, s.head)) =
      some ([.atResponse 0x02 0x00 [0x12, 0x34]], 11) := by decide

/-- V14. -/
theorem test_decModem :
    see (execDecModem 0x07 0x6F State.reset) (fun s => (s.port.events, s.dec.rxSum)) = some ([.checksumFail 0x8A 2], 0x00) := by decide

/-- P9: V6b across the index wrap. -/
theorem test_decTxstat :
    see (execDecTxstat 0x01 0xFFFD 0x03 0x21 0x00 0x53 (unreadAt 250 [])) (fun s => (s.port.events, s.head, s.dec.rxSum)) =
      some ([.txStatus 0x01 0xFFFD 0x03 0x21 0x00 true], 5, 0xFF) := by decide

/-- V16: an empty body. -/
theorem test_decSkip :
    see (execDecSkip 0 0xFF [] State.reset) (fun s => (s.port.events, s.head, s.dec.phase)) =
      some ([.unknownType 0xFF 0], 4, .dSync) := by decide

/-- The closed form of R152 on P2. -/
theorem test_dec_closed :
    dec .default (bytes [0x00, 0x13, 0x7E, 0x00, 0x02, 0x8A, 0x07, 0x6F, 0x7E, 0x00, 0x02, 0x8A, 0x06, 0x6F]) =
      ([.checksumFail 0x8A 2, .modemStatus 0x06], [.dSync]) := by decide

/-- The reference decoder on V2 (R155). -/
theorem test_refDecTx :
    refDecTx (bytes [0x7E, 0x00, 0x16, 0x10, 0x01, 0x00, 0x13, 0xA2, 0x00, 0x40, 0x0A, 0x01, 0x27, 0xFF, 0xFE, 0x00,
      0x00, 0x54, 0x78, 0x44, 0x61, 0x74, 0x61, 0x30, 0x41, 0x13]) =
    some (.encTx 0x01 0x0013A200400A0127 0xFFFE 0x00 0x00 (bytes [0x54, 0x78, 0x44, 0x61, 0x74, 0x61, 0x30, 0x41])) := by decide

/-! ### Reset and steps -/

theorem test_reset :
    see (execReset v24) (fun s => (s.head, s.tail, s.dec.phase, s.enc.phase, s.dec.rxSum)) = some (0, 0, .dSync, .eIdle, 0) := by decide

/-- A step on a presented table word runs its frame as the first operation after reset. -/
theorem test_withFetchWord :
    see (step (State.reset.withFetchWord 32 0x7E000408)) (fun s => (s.port.txOut, s.sched)) =
      some (bytes [0x7E, 0x00, 0x04, 0x08, 0x00, 0x00, 0x00, 0xF7], []) := by decide

/-- A step on the receive interrupt. -/
theorem test_step_rx : see (step (withTurns State.reset [.rx 0x7E])) (fun s => (s.ring.read 0, s.tail)) = some (0x7E, 1) := by decide

/-! ### States and operands that meet the hypotheses of the statements -/

/-- The ring's invariant, shown field by field. -/
theorem ringInv_of {s : State}
    (h : s.ring.wf Config.ringN = true ∧ s.count ≤ 255 ∧ (s.tailView - s.head).toNat ≤ s.count ∧
      (s.head - s.headView).toNat + s.count ≤ 255) : s.RingInv := h

theorem witness_PushStoresTheByteAtTail : (unreadAt 3 [1]).ring.wf 256 = true ∧ (unreadAt 3 [1]).fullP = false := by decide

/-- The wrap from index 255 to 0. -/
theorem witness_PushStoresTheByteAtTail_wrap :
    (unreadAt 255 []).ring.wf 256 = true ∧ (unreadAt 255 []).fullP = false ∧ (unreadAt 255 []).tail = 255 := by decide

theorem witness_PushDropDiscardsTheByte : fullRing.fullP = true := by decide

theorem witness_PopTakesTheOldestByte :
    v24.head ≠ v24.tailView ∧ (unreadAt 7 []).head = (unreadAt 7 []).tailView := by decide

theorem witness_PeekLeavesTheByte :
    (unreadAt 255 [1]).head ≠ (unreadAt 255 [1]).tailView ∧ (unreadAt 0 []).head = (unreadAt 0 []).tailView := by decide

theorem witness_SyncRefreshesTheViews : (true || false) = true ∧ v27.cfg.cdc = .synchronised := by decide

theorem witness_AtomicViewsAreTheIndices : (atomicOf v27).cfg.cdc = .atomic := by decide

theorem witness_AtomicOperationIsSynchronisedThenSync :
    (atomicOf v24).cfg.cdc = .atomic ∧ ∃ t, exec (.pop true) (atomicOf v24) = .next t := ⟨rfl, _, rfl⟩

theorem ringInv_v24 : v24.RingInv := ringInv_of (by decide)

theorem witness_FifoLawOfTheRing :
    v24.RingInv ∧ ∃ acc out t, ringRun [.offer 1, .pop false, .sync .both] v24 acc out t :=
  ⟨ringInv_v24, _, _, _, _, _, _, rfl, rfl, rfl, _, _, _, rfl, rfl, rfl, _, _, _, rfl, rfl, rfl, rfl, rfl, rfl⟩

theorem witness_AvailStaysTrueUntilPopped :
    v24.RingInv ∧ v24.avail = true ∧ ∃ t, exec (.push 1) v24 = .next t := ⟨ringInv_v24, by decide, _, rfl⟩

theorem witness_PeekedByteIsTheNextPopped :
    v24.RingInv ∧ v24.avail = true ∧ (∀ op ∈ [RingOp.offer 1, .sync .both, .offer 2], ∀ f, op ≠ .pop f) ∧
      ∃ p acc out t, exec .peek v24 = .next p ∧ ringRun [.offer 1, .sync .both, .offer 2] p acc out t :=
  ⟨ringInv_v24, by decide, by simp,
    _, _, _, _, rfl, _, _, _, rfl, rfl, rfl, _, _, _, rfl, rfl, rfl, _, _, _, rfl, rfl, rfl, rfl, rfl, rfl⟩

/-- A state in the middle of a body, which meets the machine's invariant, with a turn to come. -/
def midFrame : State := withTurns (bodyState .modem 2 1 0x06) [.decoder]

theorem inv_midFrame : midFrame.Inv :=
  ⟨ringInv_of (by decide), ⟨rfl, by decide, rfl⟩, ⟨rfl, trivial⟩, fun h => nomatch h⟩

theorem witness_EveryStepKeepsTheInvariant : midFrame.Inv ∧ ∃ t, step midFrame = .next t := ⟨inv_midFrame, _, rfl⟩

/-- The reset state with `rst` held high. -/
def heldReset : State := { State.reset with port := { Ports.reset with rst := true } }

/-- The invariant's clause about a held reset, met with `rst` high. -/
theorem witness_EveryStepKeepsTheInvariant_held :
    heldReset.Inv ∧ heldReset.port.rst = true ∧ ∃ t, step (withTurns heldReset [.rx 1]) = .next t :=
  ⟨⟨ringInv_of (by decide), ⟨rfl, trivial⟩, ⟨rfl, trivial⟩, fun _ => by decide⟩, rfl, _, rfl⟩

/-- R174: a byte that arrives in reset is lost, without a push and without `rx_drop`. -/
theorem test_rx_in_reset :
    see (step (withTurns heldReset [.rx 0x7E])) (fun s => (s.tail, s.ring, s.port.rxDrops)) = some (0, [], []) := by decide

/-- R201: after the level falls the next byte is pushed to `ring[0]`. -/
theorem test_rx_after_reset :
    see (andThen (step (withTurns heldReset [.rst false, .rx 0x7E])) step) (fun s => (s.tail, s.ring.read 0)) = some (1, 0x7E) := by
  decide

theorem witness_NothingIsFatal : midFrame.Inv := inv_midFrame

/-- The last clause: a state in D_BODY that meets the invariant. -/
theorem witness_OffsetsOutsideTheLayoutFault_inv : midFrame.Inv ∧ midFrame.dec.phase = .dBody := ⟨inv_midFrame, rfl⟩

theorem witness_OutputsOnlyGrow : ∃ t, step midFrame = .next t := ⟨_, rfl⟩

theorem witness_AtRestNothingMoves : (unreadAt 7 []).atRest := ⟨⟨rfl, rfl, rfl⟩, rfl, rfl, rfl⟩

theorem witness_ProducerAndSyncWriteOnlyTheirOwn :
    v24.ring.wf 256 = true ∧ (∃ t, exec (.push 1) v24 = .next t) ∧ ∃ t, exec (.sync true true) v24 = .next t :=
  ⟨by decide, ⟨_, rfl⟩, _, rfl⟩

theorem witness_DecoderStepsWriteOnlyTheirOwn : ∃ t, exec .dBody midFrame = .next t := ⟨_, rfl⟩

theorem witness_EncoderStepsWriteOnlyTheirOwn : ∃ t, exec .eBody (sending .eBody 2 0x0A) = .next t := ⟨_, rfl⟩

theorem witness_SyncPhaseSeeksTheMarker :
    ((unreadAt 0 [0x7D]).dec.phase = .dSync ∧ (unreadAt 0 [0x7D]).avail = true ∧ (unreadAt 0 [0x7D]).ring.read 0 ≠ 0x7E) ∧
    ((unreadAt 0 [0x7E]).dec.phase = .dSync ∧ (unreadAt 0 [0x7E]).avail = true ∧ (unreadAt 0 [0x7E]).ring.read 0 = 0x7E) := by
  decide

theorem witness_LengthStepsConsumeTheirByte :
    (lenHiState.avail = true ∧ lenHiState.dec.phase = .dLenHi) ∧ (lenLoState.avail = true ∧ lenLoState.dec.phase = .dLenLo) := by
  decide

theorem witness_LengthIsBigEndian : lenHiState.dec.phase = .dLenHi ∧ 2 ≤ (lenHiState.tailView - lenHiState.head).toNat := by decide

/-- One state for each clause, at the least legal Length. -/
theorem witness_TypeStepRoutesLegalFrames :
    (typeState 0x90 12).ring.read 3 = 0x90 ∧ (typeState 0x88 5).ring.read 3 = 0x88 ∧ (typeState 0x8A 2).ring.read 3 = 0x8A ∧
      (typeState 0x8B 7).ring.read 3 = 0x8B ∧ (typeState 0x90 12).avail = true ∧ (typeState 0x90 12).dec.phase = .dType ∧
      12 ≤ (typeState 0x90 12).dec.len.toNat ∧ (typeState 0x90 12).dec.len.toNat - 12 ≤ (typeState 0x90 12).cfg.rxpMax ∧
      5 ≤ (typeState 0x88 5).dec.len.toNat ∧ (typeState 0x88 5).dec.len.toNat - 5 ≤ (typeState 0x88 5).cfg.rxpMax := by decide

/-- A staging buffer of four bytes. -/
def smallBuffer (s : State) : State := { s with cfg := { s.cfg with rxpMax := 4 } }

/-- One state for each clause, at the Lengths next to the legal ones. -/
theorem witness_TypeStepReportsAndSkips :
    ((typeState 0x91 0).dec.phase = .dType ∧ (typeState 0x91 0).avail = true ∧ (typeState 0x91 0).port.evReady = true ∧
      (0x91 : Byte) = (typeState 0x91 0).ring.read 3) ∧
    ((0x90 : Byte) = (typeState 0x90 11).ring.read 3 ∧ (typeState 0x90 11).dec.len.toNat < 12) ∧
    ((0x88 : Byte) = (typeState 0x88 4).ring.read 3 ∧ (typeState 0x88 4).dec.len.toNat < 5) ∧
    ((typeState 0x8A 3).dec.len.toNat ≠ 2 ∧ (typeState 0x8B 6).dec.len.toNat ≠ 7) ∧
    ((smallBuffer (typeState 0x90 17)).cfg.rxpMax < (smallBuffer (typeState 0x90 17)).dec.len.toNat - 12 ∧
      (smallBuffer (typeState 0x88 10)).cfg.rxpMax < (smallBuffer (typeState 0x88 10)).dec.len.toNat - 5) := by decide

theorem witness_ReportsWaitForTheHost :
    (holding (typeState 0x91 0)).port.evReady = false ∧ decodable (holding (typeState 0x91 0)).cfg 0x91 0 = false := by decide

/-- The last offset before the payload and the last one of `RXP` (a buffer of four bytes). -/
theorem witness_BodyStepStoresRxFields :
    let s := smallBuffer (bodyState .rx 16 15 0xB2)
    s.dec.phase = .dBody ∧ s.dec.path = .rx ∧ s.avail = true ∧ s.dec.pos < s.dec.len ∧ s.dec.rxp.wf s.cfg.rxpMax = true ∧
      s.dec.pos.toNat < s.cfg.rxpMax + 12 := by decide

theorem witness_BodyStepStoresAtResponseFields :
    let s := smallBuffer (bodyState .atresp 9 8 0xB2)
    s.dec.phase = .dBody ∧ s.dec.path = .atresp ∧ s.avail = true ∧ s.dec.pos < s.dec.len ∧ s.dec.rxp.wf s.cfg.rxpMax = true ∧
      s.dec.pos.toNat < s.cfg.rxpMax + 5 := by decide

theorem witness_BodyStepStoresStatusFields :
    let s := bodyState .modem 2 1 0xB2
    let u := bodyState .txstat 7 6 0xB2
    (s.dec.phase = .dBody ∧ s.avail = true ∧ s.dec.pos < s.dec.len ∧ s.dec.path = .modem ∧ s.dec.pos.toNat ≤ 1) ∧
      (u.dec.phase = .dBody ∧ u.avail = true ∧ u.dec.pos < u.dec.len ∧ u.dec.path = .txstat ∧ u.dec.pos.toNat ≤ 6) := by decide

theorem witness_ChecksumStepDeliversTheFrame :
    let s := cksumState 0x6F
    s.dec.phase = .dCksum ∧ s.avail = true ∧ s.port.evReady = true ∧ s.dec.rxSum + s.ring.read s.head.toNat = 0xFF ∧
      s.dec.path = .modem := by decide

theorem witness_ChecksumStepRejectsTheFrame :
    let s := cksumState 0x6E
    s.dec.phase = .dCksum ∧ s.avail = true ∧ s.port.evReady = true ∧ s.dec.rxSum + s.ring.read s.head.toNat ≠ 0xFF ∧
      s.dec.path = .modem := by decide

theorem witness_SkipStepDiscardsOneByte :
    (skipState 1).dec.phase = .dSkip ∧ (skipState 1).avail = true ∧ 1 ≤ (skipState 1).dec.rem.toNat ∧
      1 ≤ (skipState 65536).dec.rem.toNat := by decide

theorem witness_DecoderWaitsWithoutAByte : (withDec (unreadAt 7 []) fun d => { d with phase := .dBody, len := 7 }).avail = false := by
  decide

/-- The first offset outside each layout. -/
theorem witness_OffsetsOutsideTheLayoutFault :
    let m := bodyState .modem 3 2 0
    let x := bodyState .txstat 8 7 0
    let r := smallBuffer (bodyState .rx 20 16 0)
    let a := smallBuffer (bodyState .atresp 20 9 0)
    let e := withEnc (sending .eBody 4 0) fun e => { e with len := 5 }
    let t := withEnc (sending .eBody 255 0) fun e => { e with len := 256, kind := .tx }
    (m.avail = true ∧ m.dec.pos < m.dec.len ∧ 2 ≤ m.dec.pos.toNat) ∧ (x.dec.pos < x.dec.len ∧ 7 ≤ x.dec.pos.toNat) ∧
      (r.dec.pos < r.dec.len ∧ r.cfg.rxpMax + 12 ≤ r.dec.pos.toNat) ∧
      (a.dec.pos < a.dec.len ∧ a.cfg.rxpMax + 5 ≤ a.dec.pos.toNat) ∧
      (e.enc.phase = .eBody ∧ e.port.txReady = true ∧ e.enc.pos < e.enc.len ∧ 4 ≤ e.enc.pos.toNat) ∧
      (t.enc.phase = .eBody ∧ t.enc.pos < t.enc.len ∧ 255 ≤ t.enc.pos.toNat) := by decide

set_option maxRecDepth 4000 in
/-- The longest payload, and an AT command. -/
theorem witness_CommandIsLatched :
    let s := withCmd State.reset (.txFrame 1 2 3 4 5 (List.replicate 241 0xFF))
    let u := withCmd State.reset (.atFrame 1 2 3)
    (s.enc.phase = .eIdle ∧ s.enc.txp.wf 241 = true ∧ s.port.cmds = [.txFrame 1 2 3 4 5 (List.replicate 241 0xFF)] ∧
      (List.replicate 241 (0xFF : Byte)).length ≤ 241) ∧ (u.enc.phase = .eIdle ∧ u.port.cmds = [.atFrame 1 2 3]) := by decide

theorem witness_EncoderWaits :
    (sending .eBody 2 0).enc.phase ≠ .eIdle ∧ (stalled (sending .eBody 2 0)).port.txReady = false := by decide

theorem witness_HeaderBytesAreSent :
    (sending .eStart 0 0).port.txReady = true ∧ (sending .eStart 0 0).enc.phase = .eStart ∧
      (sending .eLenHi 0 0).enc.phase = .eLenHi ∧ (sending .eLenLo 0 0).enc.phase = .eLenLo := by decide

/-- The last offset of the longest frame. -/
theorem witness_TxBodyByteIsSent :
    let s := withEnc (sending .eBody 254 0) fun e => { e with len := 255, kind := .tx }
    s.enc.phase = .eBody ∧ s.enc.kind = .tx ∧ s.port.txReady = true ∧ s.enc.pos < s.enc.len ∧ s.enc.pos.toNat < 255 := by decide

theorem witness_AtBodyByteIsSent :
    let s := sending .eBody 3 0
    s.enc.phase = .eBody ∧ s.enc.kind = .atCmd ∧ s.port.txReady = true ∧ s.enc.pos < s.enc.len ∧ s.enc.pos.toNat < 4 := by decide

theorem witness_ChecksumByteIsSent :
    (sending .eCksum 4 0xB0).enc.phase = .eCksum ∧ (sending .eCksum 4 0xB0).port.txReady = true := by decide

theorem idleSender_reset : State.reset.idleSender := ⟨rfl, rfl, rfl, rfl, rfl⟩

theorem witness_EncTxSendsItsFrame : State.reset.idleSender ∧ (List.replicate 241 (0 : Byte)).length ≤ 241 :=
  ⟨idleSender_reset, Nat.le_of_eq List.length_replicate⟩

theorem witness_OversizedCommandIsRejected :
    let s := withCmd State.reset (.txFrame 1 2 3 4 5 (List.replicate 242 0xFF))
    241 < (List.replicate 242 (0xFF : Byte)).length ∧
      (s.enc.phase = .eIdle ∧ s.port.cmds = [.txFrame 1 2 3 4 5 (List.replicate 242 0xFF)]) ∧ State.reset.idleSender :=
  ⟨Nat.lt_of_lt_of_eq (by omega) List.length_replicate.symm, ⟨rfl, rfl⟩, idleSender_reset⟩

theorem witness_EncAtSendsItsFrame : State.reset.idleSender := idleSender_reset

theorem listening_250 : (unreadAt 250 []).listening := ⟨ringInv_of (by decide), ⟨rfl, rfl, rfl⟩, rfl, rfl, rfl⟩

theorem witness_RxFrameIsDelivered :
    (unreadAt 250 []).listening ∧ (unreadAt 250 []).dec.rxp.wf (unreadAt 250 []).cfg.rxpMax = true ∧
      WellFormed (unreadAt 250 []).cfg (.decRx 1 2 3 [4] 5) = true := ⟨listening_250, rfl, by decide⟩

theorem witness_AtResponseFrameIsDelivered :
    (unreadAt 250 []).listening ∧ (unreadAt 250 []).dec.rxp.wf (unreadAt 250 []).cfg.rxpMax = true ∧
      WellFormed (unreadAt 250 []).cfg (.decAtresp 1 2 3 4 [] 5) = true := ⟨listening_250, rfl, by decide⟩

theorem witness_StatusFramesAreDelivered : (unreadAt 250 []).listening := listening_250

/-- One frame for each clause. -/
theorem witness_OtherFramesAreSkipped :
    (unreadAt 250 []).listening ∧ WellFormed (unreadAt 250 []).cfg (.decSkip 0 0xFF []) = true ∧
      WellFormed (unreadAt 250 []).cfg (.decSkip 1 0x8B [2]) = true ∧
      WellFormed (smallBuffer (unreadAt 250 [])).cfg (.decSkip 10 0x88 (List.replicate 10 0)) = true :=
  ⟨listening_250, by decide, by decide, by decide⟩

theorem witness_LoopedBackFramesAreUnknown :
    (withTurns (unreadAt 250 []) [.frame .received (encTxFrame 1 2 3 4 5 [6])]).listening ∧ [(6 : Byte)].length ≤ 241 ∧
      (withTurns (unreadAt 250 []) [.frame .received (encAtFrame 1 2 3)]).listening :=
  ⟨⟨ringInv_of (by decide), ⟨rfl, rfl, rfl⟩, rfl, rfl, rfl⟩, by decide, ringInv_of (by decide), ⟨rfl, rfl, rfl⟩, rfl, rfl, rfl⟩

theorem witness_ChecksumCatchesAChangedByte : (1 : Byte) ≠ 2 ∧ sumBytes ([0x8A] ++ 1 :: [0x74]) = 0xFF := by decide

theorem witness_RunIsTheClosedForm :
    (unreadAt 250 []).listening ∧ (unreadAt 250 []).dec.rxp.wf (unreadAt 250 []).cfg.rxpMax = true ∧
      (List.replicate 255 (0x7E : Byte)).length ≤ 255 := ⟨listening_250, rfl, Nat.le_of_eq List.length_replicate⟩

theorem witness_FrameOperationsAreByteSteps :
    (encode (.decModem 6 0x6F)).isSome = true ∧ ∃ t, exec (.decModem 6 0x6F) State.reset = .next t := by
  refine ⟨rfl, ?_⟩
  cases h : exec (.decModem 6 0x6F) State.reset with
  | next t => exact ⟨t, rfl⟩
  | fault r => exact absurd (show see (exec (.decModem 6 0x6F) State.reset) (fun s => s.head) = some 6 by decide) (by rw [h]; simp [see])
  | refused r => exact absurd (show see (exec (.decModem 6 0x6F) State.reset) (fun s => s.head) = some 6 by decide) (by rw [h]; simp [see])

theorem witness_DecodeOfEncodeIsTheOperation :
    WellFormed .default (.decSkip 2 0x95 [1, 2]) = true ∧ (Instr.decSkip 2 0x95 [1, 2]).frameDir = some .received ∧
      encode (.decSkip 2 0x95 [1, 2]) = some [0x7E, 0, 2, 0x95, 1, 2] := by decide

set_option maxRecDepth 4000 in
theorem witness_ReferenceDecodersRoundTrip : (List.replicate 241 (0 : Byte)).length ≤ 241 := by decide

theorem witness_FrameExtentIsTheLength :
    decode .default .received (0x7E :: 0 :: 2 :: 0x8A :: [6, 0x6F, 0x7E]) = .ok (.decModem 6 0x6F, [0x7E]) := by rfl

theorem witness_StepRunsTheDecodedFrame :
    (withTurns State.reset [.frame .received [0x7E, 0, 2, 0x8A, 6, 0x6F]]).sched = [.frame .received [0x7E, 0, 2, 0x8A, 6, 0x6F]] ∧
      decode State.reset.cfg .received [0x7E, 0, 2, 0x8A, 6, 0x6F] = .ok (.decModem 6 0x6F, []) := ⟨rfl, rfl⟩

theorem witness_StepRunsTheSelectedOperation :
    (withTurns State.reset [.rx 1]).sched = [.rx 1] ∧ (withTurns State.reset [.decoder]).sched = [.decoder] ∧
      (withTurns State.reset [.encoder]).sched = [.encoder] ∧
      (withTurns State.reset [.rst true]).sched = [.rst true] ∧ (withTurns heldReset [.rx 1]).port.rst = true ∧
      (withTurns heldReset [.rst false]).sched = [.rst false] ∧
      (withTurns heldReset [.command (.atFrame 1 2 3)]).sched = [.command (.atFrame 1 2 3)] ∧
      (withTurns State.reset [.sync .tailOnly]).sched = [.sync .tailOnly] ∧
      (withTurns State.reset [.sync .headOnly]).sched = [.sync .headOnly] ∧
      (withTurns State.reset [.sync .both]).sched = [.sync .both] ∧
      (withTurns State.reset [.reset]).sched = [.reset] ∧ (withTurns State.reset [.sample]).sched = [.sample] ∧
      (withTurns State.reset [.pop true]).sched = [.pop true] ∧ (withTurns State.reset [.peek]).sched = [.peek] ∧
      (withTurns State.reset [.txReady false]).sched = [.txReady false] ∧
      (withTurns State.reset [.evReady false]).sched = [.evReady false] := by decide

/-! ### A fair run -/

/-- One unread byte, which is no marker; the first turn takes it. -/
def fairStates : Nat → State
  | 0 => unreadAt 255 [0x7D]
  | 1 => { unreadAt 255 [] with head := 0, tail := 0, tailC := 0, ring := [(255, 0x7D)] }
  | _ + 2 => { unreadAt 255 [] with head := 0, tail := 0, tailC := 0, headP := 0, ring := [(255, 0x7D)] }

/-- The DECODER once, then SYNC for ever. -/
def fairTurns : Nat → Turn
  | 0 => .decoder
  | _ + 1 => .sync .both

theorem fairRun_fairStates : FairRun fairTurns fairStates where
  run | 0 => rfl
      | 1 => rfl
      | _ + 2 => rfl
  syncTail n := ⟨n + 1, by omega, fun _ => ⟨.both, rfl, rfl⟩⟩
  syncHead n := ⟨n + 1, by omega, fun _ => ⟨.both, rfl, rfl⟩⟩
  decoder n := ⟨n + 2, by omega, .inr rfl⟩
  encoder n := ⟨n + 2, by omega, .inr rfl⟩
  txReady n := ⟨n + 2, by omega, rfl⟩
  evReady n := ⟨n + 2, by omega, rfl⟩

/-- A fair run that meets every premise, across the index wrap, with an unread byte at moment 0. -/
theorem witness_FairRunsServeTheRing :
    FairRun fairTurns fairStates ∧ (fairStates 0).Inv ∧
      (∀ m, byteTurn (fairTurns m) = true ∧ (fairStates m).port.evReady = true) ∧ (fairStates 0).count ≠ 0 := by
  refine ⟨fairRun_fairStates, ⟨ringInv_of (by decide), ⟨rfl, trivial⟩, ⟨rfl, trivial⟩, fun h => nomatch h⟩, ?_, by decide⟩
  intro m
  match m with
  | 0 => exact ⟨rfl, rfl⟩
  | 1 => exact ⟨rfl, rfl⟩
  | _ + 2 => exact ⟨rfl, rfl⟩

end Sys2Proof.Machine.Tests
end

section
/-! SUPPORT. What one byte step of an agent can do (R5, R7): an inversion lemma for each agent, for each turn that is a byte
step, and the runs of such turns. -/

namespace Sys2Proof.Machine

/-! ### The PRODUCER -/

/-- What the receive interrupt can do: lose the byte in reset, drop it on a full ring, or push it (R91, R92, R174). -/
theorem rxInterrupt_cases {b : Byte} {s t : State} (h : rxInterrupt b s = .next t) :
    t = s ∨ (s.fullP = true ∧ t = s.dropByte b) ∨ (s.fullP = false ∧ t = s.pushByte b) := by
  cases hr : s.port.rst with
  | true => rw [rxInterrupt_in_reset hr] at h; cases h; exact .inl rfl
  | false =>
    cases hf : s.fullP with
    | true => rw [rxInterrupt_of_full hr hf] at h; cases h; exact .inr (.inl ⟨rfl, rfl⟩)
    | false => rw [rxInterrupt_of_not_full hr hf] at h; cases h; exact .inr (.inr ⟨rfl, rfl⟩)

/-! ### The DECODER -/

/-- `DecoderMove s t`: the DECODER's step from `s` leads to `t`, with the condition under which each phase's step is taken
(R131 to R148). -/
inductive DecoderMove (s : State) : State → Prop where
  | wait : s.decoderEnabled = false → DecoderMove s s
  | discard : s.dec.phase = .dSync → s.avail = true → s.headByte ≠ Config.start → DecoderMove s (s.popByte false)
  | marker : s.dec.phase = .dSync → s.avail = true → s.headByte = Config.start →
      DecoderMove s ((s.popByte false).toDPhase .dLenHi)
  | lenHi : s.dec.phase = .dLenHi → s.avail = true →
      DecoderMove s (((s.popByte false).setLenHi s.headByte).toDPhase .dLenLo)
  | lenLo : s.dec.phase = .dLenLo → s.avail = true →
      DecoderMove s ((((s.popByte false).addLenLo s.headByte).clearRxSum).toDPhase .dType)
  | path (p : DPath) (q : BitVec 16) : s.dec.phase = .dType → s.avail = true →
      route s.cfg s.headByte s.dec.len = .path p q → DecoderMove s (s.enterBody p q)
  | report (k : Failure) : s.dec.phase = .dType → s.avail = true →
      route s.cfg s.headByte s.dec.len = .fail k → s.port.evReady = true → DecoderMove s (s.raise k s.headByte)
  | body (d : DecoderState) : s.dec.phase = .dBody → s.avail = true → s.dec.pos < s.dec.len →
      store s.cfg (s.popByte true).dec s.dec.pos.toNat s.headByte = some d →
      DecoderMove s { s.popByte true with dec := d }.advanceBody
  | cksum : s.dec.phase = .dCksum → s.avail = true → s.port.evReady = true →
      DecoderMove s (s.popByte true).finishFrame
  | skip : s.dec.phase = .dSkip → s.avail = true → s.dec.rem ≠ 0 → DecoderMove s (s.popByte false).countSkip

/-- The DECODER's step is one of its moves. -/
theorem decoderStep_move {s t : State} (h : decoderStep s = .next t) : DecoderMove s t := by
  unfold decoderStep at h
  split at h
  case h_1 hp =>
    split at h
    · next hb =>
      unfold execDSyncMarker at h
      split at h
      · next hc => cases h; exact .marker hp hc.2.1 hb
      · next hc => cases h; exact .wait (by simpa [State.decoderEnabled, hp, hb] using hc)
    · next hb =>
      unfold execDSyncDiscard at h
      split at h
      · next hc => cases h; exact .discard hp hc.2.1 hb
      · next hc => cases h; exact .wait (by simpa [State.decoderEnabled, hp, hb] using hc)
  case h_2 hp =>
    unfold execDLenHi at h
    split at h
    · next hc => cases h; exact .lenHi hp hc.2
    · next hc => cases h; exact .wait (by simpa [State.decoderEnabled, hp] using hc)
  case h_3 hp =>
    unfold execDLenLo at h
    split at h
    · next hc => cases h; exact .lenLo hp hc.2
    · next hc => cases h; exact .wait (by simpa [State.decoderEnabled, hp] using hc)
  case h_4 hp =>
    unfold execDType at h
    split at h
    · next hc =>
      split at h
      · next p q hr => cases h; exact .path p q hp hc.2 hr
      · next k hr =>
        split at h
        · next he => cases h; exact .report k hp hc.2 hr he
        · next he => cases h; exact .wait (by simpa [State.decoderEnabled, hp, hr] using fun _ => he)
    · next hc =>
      cases h
      exact .wait (by rw [State.decoderEnabled, show s.avail = false by simpa [hp] using hc, Bool.false_and])
  case h_5 hp =>
    unfold execDBody at h
    split at h
    · next hc =>
      split at h
      · next d hd => cases h; exact .body d hp hc.2.1 hc.2.2 hd
      · cases h
    · next hc => cases h; exact .wait (by simpa [State.decoderEnabled, hp] using hc)
  case h_6 hp =>
    unfold execDCksum at h
    split at h
    · next hc => cases h; exact .cksum hp hc.2.1 hc.2.2
    · next hc => cases h; exact .wait (by simpa [State.decoderEnabled, hp] using hc)
  case h_7 hp =>
    unfold execDSkip at h
    split at h
    · next hc => cases h; exact .skip hp hc.2.1 hc.2.2
    · next hc => cases h; exact .wait (by simpa [State.decoderEnabled, hp] using hc)

/-- The end of a frame delivers one event and writes the decoder's registers (R145, R146). -/
theorem State.finishFrame_eq (s : State) :
    ∃ d e, s.finishFrame = { s with dec := d, port := { s.port with events := s.port.events ++ [e] } } := by
  unfold State.finishFrame
  split
  · exact ⟨_, _, rfl⟩
  · rw [State.raise_eq]; exact ⟨_, _, rfl⟩

/-- The frame of a DECODER step (R22): it writes its own registers, delivers events, and advances `head` only past a byte it
sees. -/
theorem DecoderMove.frame {s t : State} (h : DecoderMove s t) :
    ∃ hd d es, t = { s with head := hd, dec := d, port := { s.port with events := s.port.events ++ es } } ∧
      (hd = s.head ∨ s.avail = true ∧ hd = s.head + 1) := by
  have pops : ∀ feed, s.avail = true → ∀ d, ∃ hd d' es, ({ s.popByte feed with dec := d } : State) =
      { s with head := hd, dec := d', port := { s.port with events := s.port.events ++ es } } ∧
      (hd = s.head ∨ s.avail = true ∧ hd = s.head + 1) :=
    fun feed ha d => ⟨s.head + 1, d, [], by simp [State.popByte], .inr ⟨ha, rfl⟩⟩
  cases h with
  | wait => exact ⟨s.head, s.dec, [], by simp, .inl rfl⟩
  | discard _ ha _ => exact pops false ha _
  | marker _ ha _ => exact pops false ha _
  | lenHi _ ha => exact pops false ha _
  | lenLo _ ha => exact pops false ha _
  | path p q => exact ⟨s.head, _, [], by rw [List.append_nil]; rfl, .inl rfl⟩
  | report k => rw [State.raise_eq]; exact ⟨s.head, _, _, rfl, .inl rfl⟩
  | body d _ ha _ _ => exact pops true ha _
  | cksum _ ha _ =>
    obtain ⟨d, e, heq⟩ := (s.popByte true).finishFrame_eq
    exact ⟨s.head + 1, d, [e], heq, .inr ⟨ha, rfl⟩⟩
  | skip _ ha _ => exact pops false ha _

/-! ### The ENCODER -/

/-- The frame of an ENCODER step (R22, R182): it writes its own registers, answers on `cmd` and sends bytes. -/
theorem encoderStep_frame {s t : State} (h : encoderStep s = .next t) :
    ∃ e cs r bs, t =
      { s with enc := e, port := { s.port with cmds := cs, cmdStatus := r, txOut := s.port.txOut ++ bs } } := by
  have waits : t = s → ∃ e cs r bs, t =
      { s with enc := e, port := { s.port with cmds := cs, cmdStatus := r, txOut := s.port.txOut ++ bs } } := by
    rintro rfl
    exact ⟨t.enc, t.port.cmds, t.port.cmdStatus, [], by simp⟩
  unfold encoderStep at h
  split at h
  case h_1 hp =>
    unfold execCmdAccept at h
    split at h
    · cases h; exact waits rfl
    · next c cs _ =>
      rw [if_pos hp] at h
      cases hc : commandOversized c <;> simp only [hc, if_true, Bool.false_eq_true, if_false] at h <;> cases h <;>
        exact ⟨_, _, _, [], by rw [List.append_nil]; rfl⟩
  case h_2 | h_6 =>
    simp only [execEStart, execECksum] at h
    split at h <;> cases h
    · exact ⟨_, _, _, _, rfl⟩
    · exact waits rfl
  case h_3 | h_4 =>
    unfold execELen at h
    split at h
    · cases h; exact ⟨_, _, _, _, rfl⟩
    · split at h <;> cases h
      · exact ⟨_, _, _, _, rfl⟩
      · exact waits rfl
  case h_5 =>
    unfold execEBody at h
    split at h
    · split at h <;> cases h
      exact ⟨_, _, _, _, rfl⟩
    · cases h; exact waits rfl

/-! ### Byte turns -/

theorem step_present_decoder (s : State) : step (s.present .decoder) = decoderStep s := (decoderStep_eq_exec s).symm

theorem step_present_encoder (s : State) : step (s.present .encoder) = encoderStep s := (encoderStep_eq_exec s).symm

theorem step_present_command (s : State) (c : Command) : step (s.present (.command c)) = .next (s.offer c) := rfl

/-- `ByteMove s x t`: the byte turn `x` leads from `s` to `t`, by the step of the agent it names. -/
inductive ByteMove (s : State) : Turn → State → Prop where
  | rx (b : Byte) (t : State) : rxInterrupt b s = .next t → ByteMove s (.rx b) t
  | decoder (t : State) : decoderStep s = .next t → ByteMove s .decoder t
  | encoder (t : State) : encoderStep s = .next t → ByteMove s .encoder t
  | sync (c : SyncCopies) : ByteMove s (.sync c) (s.syncViews (copiesTail c) (copiesHead c))
  | command (c : Command) : ByteMove s (.command c) (s.offer c)

/-- A byte turn is a move of the agent it names, and only that (R5, R7). -/
theorem byteMove_iff {s t : State} {x : Turn} :
    ByteMove s x t ↔ byteTurn x = true ∧ step (s.present x) = .next t := by
  constructor
  · intro h
    cases h with
    | rx b t h => exact ⟨rfl, (step_present_rx s b).trans h⟩
    | decoder t h => exact ⟨rfl, (step_present_decoder s).trans h⟩
    | encoder t h => exact ⟨rfl, (step_present_encoder s).trans h⟩
    | sync c => exact ⟨rfl, step_present_sync s c⟩
    | command c => exact ⟨rfl, step_present_command s c⟩
  · rintro ⟨hx, h⟩
    cases x with
    | rx b => exact .rx b t ((step_present_rx s b).symm.trans h)
    | decoder => exact .decoder t ((step_present_decoder s).symm.trans h)
    | encoder => exact .encoder t ((step_present_encoder s).symm.trans h)
    | sync c => rw [step_present_sync] at h; cases h; exact .sync c
    | command c => rw [step_present_command] at h; cases h; exact .command c
    | pop | peek | sample | reset | rst | txReady | evReady | frame => cases hx

/-- A state reached by byte steps of the agents alone. -/
def ByteReach : State → State → Prop := Relation.ReflTransGen fun s t => ∃ x, ByteMove s x t

theorem ByteReach.single {s t : State} {x : Turn} (h : ByteMove s x t) : ByteReach s t :=
  Relation.ReflTransGen.single ⟨x, h⟩

theorem runDecoder_reach {n : Nat} {s t : State} (h : runDecoder n s = .next t) : ByteReach s t :=
  runDecoder_keeps (P := ByteReach s) (fun _ v hu _ hv => hu.tail ⟨.decoder, .decoder v hv⟩) n s t .refl h

theorem runEncoder_reach {n : Nat} {s t : State} (h : runEncoder n s = .next t) : ByteReach s t :=
  runEncoder_keeps (P := ByteReach s) (fun _ v hu _ hv => hu.tail ⟨.encoder, .encoder v hv⟩) n s t .refl h

theorem sendCommand_reach {c : Command} {s t : State} (h : sendCommand c s = .next t) : ByteReach s t :=
  (ByteReach.single (.command c)).trans (runEncoder_reach h)

theorem execSync_both_reach {s t : State} (h : execSync true true s = .next t) : ByteReach s t := by
  cases h
  exact ByteReach.single (.sync .both)

theorem receiveByte_reach {b : Byte} {s t : State} (h : receiveByte b s = .next t) : ByteReach s t := by
  obtain ⟨w, hw, hsync'⟩ := andThen_eq_next h
  obtain ⟨v, hv, hrun⟩ := andThen_eq_next hw
  obtain ⟨u, hrx, hsync⟩ := andThen_eq_next hv
  have hsu : ByteReach s u := .single (.rx b u hrx)
  exact ((hsu.trans (execSync_both_reach hsync)).trans (runDecoder_reach hrun)).trans (execSync_both_reach hsync')

theorem receiveBytes_reach : ∀ {bs : List Byte} {s t : State}, receiveBytes bs s = .next t → ByteReach s t
  | [], _, _, h => by cases h; exact .refl
  | _ :: _, _, _, h => by
    obtain ⟨u, hu, hrest⟩ := andThen_eq_next h
    exact (receiveByte_reach hu).trans (receiveBytes_reach hrest)

/-- A whole-frame operation is reached by byte steps (R7, assumption 6). -/
theorem exec_frame_reach {i : Instr} {s t : State} (hi : (encode i).isSome = true) (h : exec i s = .next t) :
    ByteReach s t := by
  cases i with
  | encTx | encAt => exact sendCommand_reach h
  | decRx | decAtresp | decModem | decTxstat | decSkip => exact receiveBytes_reach h
  | _ => cases hi

/-! ### Steps on a frame turn -/

/-- What `decode` answers is a frame operation. -/
theorem decode_encode_isSome {cfg : Config} {dir : Direction} {bytes more : List Byte} {i : Instr}
    (h : decode cfg dir bytes = .ok (i, more)) : (encode i).isSome = true := by
  unfold decode at h
  split at h
  · split at h
    · split at h
      · cases h
      · split at h
        · next kind _ => cases h; cases kind <;> rfl
        · cases h
    · cases h
  · split at h <;> cases h
  · cases h

/-- A frame turn whose bytes decode runs the operation they decode to; bytes behind it become the next turn. -/
theorem step_present_frame_ok {s : State} {dir : Direction} {bytes more : List Byte} {i : Instr}
    (h : decode s.cfg dir bytes = .ok (i, more)) :
    step (s.present (.frame dir bytes)) =
      exec i { s with sched := if more = [] then s.sched else .frame dir more :: s.sched } := by
  rw [step_present]
  cases more <;> simp [fetchInstr, h]

/-- A frame turn whose bytes do not decode runs no operation (assumption 18). -/
theorem step_present_frame_error {s : State} {dir : Direction} {bytes : List Byte} {e : DecodeError}
    (h : decode s.cfg dir bytes = .error e) :
    step (s.present (.frame dir bytes)) = surroundings (.frame dir bytes) s := by
  rw [step_present]
  simp [fetchInstr, h]

/-- Settles O57: the listed turn is the one presented to the state with the turns behind it. -/
theorem stepRunsTheDecodedFrame : Obligations.StepRunsTheDecodedFrame := by
  intro s dir bytes more rest i hs hd
  have hpresent : s = ({ s with sched := rest } : State).present (.frame dir bytes) := by
    rw [State.present, ← hs]
  rw [hpresent]
  exact step_present_frame_ok hd

end Sys2Proof.Machine
end

section
/-! SUPPORT. The turns to come are no part of what a byte step reads or writes, so a run of byte steps is a run of the
machine with those steps listed as turns (R7). -/

namespace Sys2Proof.Machine

/-! ### Byte steps and the turns to come -/

/-- `s` with `l` as the turns to come. -/
def State.reschedule (s : State) (l : List Turn) : State := { s with sched := l }

@[simp] theorem State.reschedule_sched (s : State) (l : List Turn) : (s.reschedule l).sched = l := rfl

/-- A listed turn is a presented one. -/
theorem State.reschedule_cons (s : State) (x : Turn) (l : List Turn) :
    s.reschedule (x :: l) = (s.reschedule l).present x := rfl

theorem andThen_ite (c : Prop) [Decidable c] (o o' : Host.Outcome State Fault Refusal)
    (f : State → Host.Outcome State Fault Refusal) :
    andThen (if c then o else o') f = if c then andThen o f else andThen o' f := by
  split <;> rfl

theorem rxInterrupt_reschedule (b : Byte) (s : State) (l : List Turn) :
    rxInterrupt b (s.reschedule l) = andThen (rxInterrupt b s) fun t => .next (t.reschedule l) := by
  simp only [rxInterrupt, execPush, execPushDrop, andThen_ite]
  rfl

theorem State.finishFrame_reschedule (s : State) (l : List Turn) :
    (s.reschedule l).finishFrame = s.finishFrame.reschedule l := by
  have hsum : (s.reschedule l).rxSumOk = s.rxSumOk := rfl
  unfold State.finishFrame
  rw [hsum]
  cases s.rxSumOk <;> rfl

theorem decoderStep_reschedule (s : State) (l : List Turn) :
    decoderStep (s.reschedule l) = andThen (decoderStep s) fun t => .next (t.reschedule l) := by
  have hphase : (s.reschedule l).dec.phase = s.dec.phase := rfl
  unfold decoderStep
  rw [hphase]
  cases s.dec.phase with
  | dSync => simp only [execDSyncMarker, execDSyncDiscard, andThen_ite]; rfl
  | dLenHi => simp only [execDLenHi, andThen_ite]; rfl
  | dLenLo => simp only [execDLenLo, andThen_ite]; rfl
  | dType =>
    have hroute : route (s.reschedule l).cfg (s.reschedule l).headByte (s.reschedule l).dec.len =
        route s.cfg s.headByte s.dec.len := rfl
    simp only [execDType, andThen_ite, hroute]
    cases route s.cfg s.headByte s.dec.len with
    | path p q => rfl
    | fail k => simp only [andThen_ite]; cases k <;> rfl
  | dBody =>
    have hstore : store (s.reschedule l).cfg ((s.reschedule l).popByte true).dec (s.reschedule l).dec.pos.toNat
        (s.reschedule l).headByte = store s.cfg (s.popByte true).dec s.dec.pos.toNat s.headByte := rfl
    simp only [execDBody, andThen_ite, hstore]
    cases store s.cfg (s.popByte true).dec s.dec.pos.toNat s.headByte <;> rfl
  | dCksum =>
    have hfinish : ((s.reschedule l).popByte true).finishFrame = (s.popByte true).finishFrame.reschedule l :=
      State.finishFrame_reschedule (s.popByte true) l
    simp only [execDCksum, andThen_ite, hfinish]; rfl
  | dSkip => simp only [execDSkip, andThen_ite]; rfl

theorem encoderStep_reschedule (s : State) (l : List Turn) :
    encoderStep (s.reschedule l) = andThen (encoderStep s) fun t => .next (t.reschedule l) := by
  have hphase : (s.reschedule l).enc.phase = s.enc.phase := rfl
  unfold encoderStep
  rw [hphase]
  cases s.enc.phase with
  | eIdle =>
    have hcmds : (s.reschedule l).port.cmds = s.port.cmds := rfl
    simp only [execCmdAccept, hcmds]
    cases s.port.cmds with
    | nil => rfl
    | cons c cs => simp only [andThen_ite]; rfl
  | eStart => simp only [execEStart, andThen_ite]; rfl
  | eLenHi | eLenLo => simp only [execELen, andThen_ite]; rfl
  | eBody =>
    have hbody : bodyByte (s.reschedule l).enc (s.reschedule l).enc.pos.toNat = bodyByte s.enc s.enc.pos.toNat := rfl
    simp only [execEBody, andThen_ite, hbody]
    cases bodyByte s.enc s.enc.pos.toNat <;> rfl
  | eCksum => simp only [execECksum, andThen_ite]; rfl

/-- A byte move does the same whatever turns are to come, and leaves them. -/
theorem ByteMove.reschedule {s t : State} {x : Turn} (h : ByteMove s x t) (l : List Turn) :
    ByteMove (s.reschedule l) x (t.reschedule l) := by
  cases h with
  | rx b t h => exact .rx b _ (by rw [rxInterrupt_reschedule, h]; rfl)
  | decoder t h => exact .decoder _ (by rw [decoderStep_reschedule, h]; rfl)
  | encoder t h => exact .encoder _ (by rw [encoderStep_reschedule, h]; rfl)
  | sync c =>
    have hsync : (s.syncViews (copiesTail c) (copiesHead c)).reschedule l =
        (s.reschedule l).syncViews (copiesTail c) (copiesHead c) := by
      unfold State.syncViews State.reschedule
      cases s.cfg.cdc <;> rfl
    rw [hsync]
    exact .sync c
  | command c =>
    have hoffer : (s.offer c).reschedule l = (s.reschedule l).offer c := by
      unfold State.offer State.reschedule
      cases s.port.rst <;> rfl
    rw [hoffer]
    exact .command c

/-- The turns to come stay: the move with its own turns to come listed is the move itself. -/
theorem ByteMove.sched_eq {s t : State} {x : Turn} (h : ByteMove s x t) : t.sched = s.sched := by
  have hsame := (byteMove_iff.1 (h.reschedule s.sched)).2.symm.trans (byteMove_iff.1 h).2
  injection hsame with ht
  rw [← ht, State.reschedule_sched]

/-! ### Runs of byte turns -/

theorem run_succ_of_step {s u : State} (h : step s = .next u) (n : Nat) :
    Host.Core.run Sys2Proof.core (n + 1) s = Host.Core.run Sys2Proof.core n u := by
  have hcore : Sys2Proof.core.step s = .next u := h
  simp only [Host.Core.run, hcore]

/-- What byte steps reach, the machine reaches with those steps listed as its next turns. -/
theorem ByteReach.exists_run {s t : State} (h : ByteReach s t) :
    t.sched = s.sched ∧ ∃ turns : List Turn, (∀ x ∈ turns, byteTurn x = true) ∧
      ∀ l, Host.Core.run Sys2Proof.core turns.length (s.reschedule (turns ++ l)) = .next (t.reschedule l) := by
  induction h using Relation.ReflTransGen.head_induction_on with
  | refl => exact ⟨rfl, [], by simp, fun l => rfl⟩
  | @head s u hsu _ ih =>
    obtain ⟨x, hx⟩ := hsu
    obtain ⟨hsched, turns, hturns, hrun⟩ := ih
    refine ⟨hsched.trans hx.sched_eq, x :: turns, ?_, fun l => ?_⟩
    · exact List.forall_mem_cons.2 ⟨(byteMove_iff.1 hx).1, hturns⟩
    · have hstep : step (s.reschedule (x :: (turns ++ l))) = .next (u.reschedule (turns ++ l)) :=
        (byteMove_iff.1 (hx.reschedule (turns ++ l))).2
      exact (run_succ_of_step hstep turns.length).trans (hrun l)

/-- Settles O52: the byte steps that a frame operation is made of, listed before the turns to come. -/
theorem frameOperationsAreByteSteps : Obligations.FrameOperationsAreByteSteps := by
  intro i s t hi h
  obtain ⟨hsched, turns, hturns, hrun⟩ := (exec_frame_reach hi h).exists_run
  refine ⟨turns, hturns, ?_⟩
  have ht : t.reschedule s.sched = t := by rw [← hsched]; rfl
  rw [← ht]
  exact hrun s.sched

end Sys2Proof.Machine
end

section
/-! SUPPORT. The parameters stay and the outputs only grow, for a byte step, for what byte steps reach, and for every other
turn (R6, R172, R201). -/

namespace Sys2Proof.Machine

/-- From `s` to `t` the parameters stay and each output trace is continued. -/
structure State.Grows (s t : State) : Prop where
  cfg : t.cfg = s.cfg
  txOut : s.port.txOut <+: t.port.txOut
  events : s.port.events <+: t.port.events
  rxDrops : s.port.rxDrops <+: t.port.rxDrops

theorem State.Grows.refl (s : State) : s.Grows s := ⟨rfl, List.prefix_rfl, List.prefix_rfl, List.prefix_rfl⟩

theorem State.Grows.trans {s t u : State} (h : s.Grows t) (h' : t.Grows u) : s.Grows u :=
  ⟨h'.cfg.trans h.cfg, h.txOut.trans h'.txOut, h.events.trans h'.events, h.rxDrops.trans h'.rxDrops⟩

theorem ByteMove.grows {s t : State} {x : Turn} (h : ByteMove s x t) : s.Grows t := by
  cases h with
  | rx b t h =>
    rcases rxInterrupt_cases h with rfl | ⟨_, rfl⟩ | ⟨_, rfl⟩
    · exact .refl t
    · exact ⟨rfl, List.prefix_rfl, List.prefix_rfl, List.prefix_append _ _⟩
    · exact ⟨rfl, List.prefix_rfl, List.prefix_rfl, List.prefix_rfl⟩
  | decoder t h =>
    obtain ⟨hd, d, es, rfl, _⟩ := (decoderStep_move h).frame
    exact ⟨rfl, List.prefix_rfl, List.prefix_append _ _, List.prefix_rfl⟩
  | encoder t h =>
    obtain ⟨e, cs, r, bs, rfl⟩ := encoderStep_frame h
    exact ⟨rfl, List.prefix_append _ _, List.prefix_rfl, List.prefix_rfl⟩
  | sync c => exact ⟨by simp, by simp, by simp, by simp⟩
  | command c =>
    refine ⟨by simp, ?_, ?_, ?_⟩ <;> rw [State.offer_port] <;> split <;> exact List.prefix_rfl

theorem ByteReach.grows {s t : State} (h : ByteReach s t) : s.Grows t := by
  induction h with
  | refl => exact .refl s
  | tail _ hstep ih => exact ih.trans hstep.choose_spec.grows

/-- RESET keeps the parameters and the traces (R201, assumption 11). -/
theorem execReset_grows {s t : State} (h : execReset s = .next t) : s.Grows t := by
  cases h
  exact ⟨rfl, List.prefix_rfl, List.prefix_rfl, List.prefix_rfl⟩

/-- The bare ring operations of R76 write no output. -/
theorem execPop_grows {feed : Bool} {s t : State} (h : execPop feed s = .next t) : s.Grows t := by
  unfold execPop at h
  split at h <;> cases h <;> exact ⟨rfl, List.prefix_rfl, List.prefix_rfl, List.prefix_rfl⟩

theorem execPeek_grows {s t : State} (h : execPeek s = .next t) : s.Grows t := by
  unfold execPeek at h
  split at h <;> cases h <;> exact ⟨rfl, List.prefix_rfl, List.prefix_rfl, List.prefix_rfl⟩

theorem step_present_frame_grows {s t : State} {dir : Direction} {bytes : List Byte}
    (h : step (s.present (.frame dir bytes)) = .next t) : s.Grows t := by
  cases hd : decode s.cfg dir bytes with
  | ok r =>
    obtain ⟨i, more⟩ := r
    rw [step_present_frame_ok hd] at h
    have hgrows := (exec_frame_reach (decode_encode_isSome hd) h).grows
    exact ⟨hgrows.cfg, hgrows.txOut, hgrows.events, hgrows.rxDrops⟩
  | error e =>
    rw [step_present_frame_error hd] at h
    cases dir with
    | received => exact (receiveBytes_reach h).grows
    | sent => cases h; exact .refl s

theorem step_present_grows {s t : State} {x : Turn} (h : step (s.present x) = .next t) : s.Grows t := by
  cases hx : byteTurn x with
  | true => exact (byteMove_iff.2 ⟨hx, h⟩).grows
  | false =>
    cases x with
    | rx | decoder | encoder | sync | command => cases hx
    | pop feed => exact execPop_grows h
    | peek => exact execPeek_grows h
    | reset => exact execReset_grows h
    | rst level =>
      cases level with
      | true =>
        have hgrows := execReset_grows (s := { s with port := { s.port with rst := true } }) h
        exact ⟨hgrows.cfg, hgrows.txOut, hgrows.events, hgrows.rxDrops⟩
      | false => cases h; exact ⟨rfl, List.prefix_rfl, List.prefix_rfl, List.prefix_rfl⟩
    | sample | txReady | evReady => cases h; exact ⟨rfl, List.prefix_rfl, List.prefix_rfl, List.prefix_rfl⟩
    | frame dir bytes => exact step_present_frame_grows h

/-- Taking the next turn leaves the parameters and the ports. -/
theorem fetchTurn_cfg_port (s : State) : (fetchTurn s).2.cfg = s.cfg ∧ (fetchTurn s).2.port = s.port := by
  unfold fetchTurn
  split <;> exact ⟨rfl, rfl⟩

/-- Settles O15: a step takes the turn it fetched, and every turn lets the outputs grow. -/
theorem outputsOnlyGrow : Obligations.OutputsOnlyGrow := by
  intro s t h
  obtain ⟨hcfg, hport⟩ := fetchTurn_cfg_port s
  obtain ⟨ht, htx, hev, hdr⟩ := step_present_grows (s := (fetchTurn s).2) (x := (fetchTurn s).1) h
  rw [hport] at htx hev hdr
  exact ⟨ht.trans hcfg, htx, hev, hdr⟩

end Sys2Proof.Machine
end

section
/-! SUPPORT. Weakly fair runs (R7, R49, R98, R100): the views catch up, the unread bytes and the DECODER's readiness last
along byte turns, and so the oldest unread byte is popped in the end. -/

namespace Sys2Proof.Machine

/-! ### The views catch up in every fair run -/

/-- A view that equals its index with no SYNC agent, and after each turn that refreshes it, catches up again and again. -/
theorem InfinitelyOften.catches_up {turns : Nat → Turn} {states : Nat → State} {view index : State → BitVec 8}
    {refreshes : Turn → Prop}
    (hfair : InfinitelyOften fun m => (states m).cfg.cdc = .synchronised → refreshes (turns m))
    (hrun : Run turns states)
    (hatomic : ∀ s : State, s.cfg.cdc = .atomic → view s = index s)
    (hsync : ∀ (s t : State) (x : Turn), refreshes x → step (s.present x) = .next t → view t = index t) :
    InfinitelyOften fun m => view (states m) = index (states m) := by
  intro n
  obtain ⟨m, hnm, hm⟩ := hfair n
  cases hc : (states m).cfg.cdc with
  | atomic => exact ⟨m, hnm, hatomic _ hc⟩
  | synchronised => exact ⟨m + 1, by omega, hsync _ _ _ (hm hc) (hrun m)⟩

theorem tailView_of_syncsTail (s t : State) (x : Turn) (hx : syncsTail x) (h : step (s.present x) = .next t) :
    t.tailView = t.tail := by
  obtain ⟨c, rfl, hcopy⟩ := hx
  rw [step_present_sync] at h
  cases h
  rw [State.syncViews_tailView, State.syncViews_tail, if_pos hcopy]

theorem headView_of_syncsHead (s t : State) (x : Turn) (hx : syncsHead x) (h : step (s.present x) = .next t) :
    t.headView = t.head := by
  obtain ⟨c, rfl, hcopy⟩ := hx
  rw [step_present_sync] at h
  cases h
  rw [State.syncViews_headView, State.syncViews_head, if_pos hcopy]

theorem FairRun.tailView_catches_up {turns : Nat → Turn} {states : Nat → State} (hf : FairRun turns states) :
    InfinitelyOften fun m => (states m).tailView = (states m).tail :=
  InfinitelyOften.catches_up hf.syncTail hf.run State.tailView_atomic tailView_of_syncsTail

theorem FairRun.headView_catches_up {turns : Nat → Turn} {states : Nat → State} (hf : FairRun turns states) :
    InfinitelyOften fun m => (states m).headView = (states m).head :=
  InfinitelyOften.catches_up hf.syncHead hf.run State.headView_atomic headView_of_syncsHead

/-! ### What a byte turn does to the ring -/

/-- What a byte turn can do to the ring, whichever agent takes it: nothing, PUSH, POP or SYNC. -/
inductive RingMove (s : State) : State → Prop where
  | stay (d : DecoderState) (e : EncoderState) (p : Ports) : RingMove s { s with dec := d, enc := e, port := p }
  | push (b : Byte) : s.fullP = false → RingMove s (s.pushByte b)
  | pop (d : DecoderState) (p : Ports) : s.avail = true → RingMove s { s with head := s.head + 1, dec := d, port := p }
  | sync (a b : Bool) : RingMove s (s.syncViews a b)

theorem ByteMove.ringMove {s t : State} {x : Turn} (h : ByteMove s x t) : RingMove s t := by
  cases h with
  | rx b t h =>
    rcases rxInterrupt_cases h with rfl | ⟨_, rfl⟩ | ⟨hf, rfl⟩
    · exact .stay t.dec t.enc t.port
    · exact .stay s.dec s.enc _
    · exact .push b hf
  | decoder t h =>
    obtain ⟨hd, d, es, rfl, rfl | ⟨ha, rfl⟩⟩ := (decoderStep_move h).frame
    · exact .stay d s.enc _
    · exact .pop d _ ha
  | encoder t h =>
    obtain ⟨e, cs, r, bs, rfl⟩ := encoderStep_frame h
    exact .stay s.dec e _
  | sync c => exact .sync _ _
  | command c =>
    unfold State.offer
    split
    · exact .stay s.dec s.enc s.port
    · exact .stay s.dec s.enc _

theorem RingMove.ringInv {s t : State} (h : RingMove s t) (hi : s.RingInv) : t.RingInv := by
  cases h with
  | stay => exact hi
  | push b hf => exact RingInv_pushByte hi hf b
  | pop d p ha => exact RingInv_popByte hi ha false
  | sync a b => exact RingInv_syncViews hi a b

theorem RingMove.head_cases {s t : State} (h : RingMove s t) : t.head = s.head ∨ t.head = s.head + 1 := by
  cases h with
  | stay | push => exact .inl rfl
  | pop => exact .inr rfl
  | sync a b => exact .inl (State.syncViews_head s a b)

/-- A PUSH into a ring with room leaves a byte unread. -/
theorem count_pushByte_ne_zero {s : State} (hi : s.RingInv) (hf : s.fullP = false) (b : Byte) :
    (s.pushByte b).count ≠ 0 := by
  obtain ⟨_, _, _, hroom⟩ := hi
  have hne : s.tail + 1 ≠ s.headView := by simpa [State.fullP] using hf
  unfold State.count at hroom ⊢
  rw [State.pushByte_tail, State.pushByte_head]
  bv_omega

/-- As long as `head` stays, an unread byte stays unread. -/
theorem RingMove.count_ne_zero {s t : State} (h : RingMove s t) (hi : s.RingInv) (hh : t.head = s.head)
    (hc : s.count ≠ 0) : t.count ≠ 0 := by
  cases h with
  | stay => exact hc
  | push b hf => exact count_pushByte_ne_zero hi hf b
  | pop => exact absurd hh (by simp)
  | sync a b => simpa [State.count] using hc

/-- The decoder's view stays or catches up with `tail`. -/
theorem RingMove.tailView_cases {s t : State} (h : RingMove s t) : t.tailView = s.tailView ∨ t.tailView = t.tail := by
  cases h with
  | stay | pop => exact .inl rfl
  | push b =>
    cases hc : s.cfg.cdc with
    | synchronised =>
      exact .inl ((State.tailView_synchronised (s.pushByte b) hc).trans (State.tailView_synchronised s hc).symm)
    | atomic => exact .inr (State.tailView_atomic _ hc)
  | sync a b =>
    rw [State.syncViews_tailView, State.syncViews_tail]
    cases a
    · exact .inl rfl
    · exact .inr rfl

/-- An unread byte is visible once the view has caught up. -/
theorem avail_of_tailView_eq {s : State} (hv : s.tailView = s.tail) (hc : s.count ≠ 0) : s.avail = true := by
  rw [State.avail_iff, hv]
  intro heq
  exact hc (by simp [State.count, heq])

/-- As long as `head` stays, a visible byte stays visible (R95). -/
theorem RingMove.avail {s t : State} (h : RingMove s t) (hi : s.RingInv) (hh : t.head = s.head) (ha : s.avail = true) :
    t.avail = true := by
  rcases h.tailView_cases with hv | hv
  · rwa [State.avail_iff, hv, hh, ← State.avail_iff]
  · exact avail_of_tailView_eq hv (h.count_ne_zero hi hh (RingInv_count_pos hi ha).ne')

/-! ### The DECODER has a step while a byte is visible -/

/-- `store` writes result registers only (R138, R140, R142, R143). -/
theorem store_frame {cfg : Config} {d d' : DecoderState} {k : Nat} {b : Byte} (h : store cfg d k b = some d') :
    d' = { d with addr64 := d'.addr64, addr16 := d'.addr16, opts := d'.opts, id := d'.id, status := d'.status,
                  retry := d'.retry, delivery := d'.delivery, discovery := d'.discovery, rxp := d'.rxp } := by
  unfold store at h
  split at h
  · simp only [storeRx, storeRxp] at h
    split_ifs at h <;> cases h <;> rfl
  · simp only [storeAtresp, storeRxp] at h
    split_ifs at h <;> cases h <;> rfl
  · simp only [storeModem] at h
    split_ifs at h <;> cases h <;> rfl
  · simp only [storeTxstat] at h
    split_ifs at h <;> cases h <;> rfl

/-- A sized path is chosen for a legal Length whose payload fits (R136). -/
theorem routeSized_eq_path {cfg : Config} {p p' : DPath} {overhead : Nat} {len : Half} {q : BitVec 16}
    (h : routeSized cfg p overhead len = .path p' q) :
    p' = p ∧ overhead ≤ len.toNat ∧ len.toNat - overhead ≤ cfg.rxpMax ∧ q = len - BitVec.ofNat 16 overhead := by
  unfold routeSized at h
  split_ifs at h with hshort hlong
  cases h
  exact ⟨rfl, Nat.not_lt.1 hshort, Nat.not_lt.1 hlong, rfl⟩

/-- A path of a fixed Length is chosen for that Length only (R136). -/
theorem routeFixed_eq_path {p p' : DPath} {want : Nat} {len : Half} {q : BitVec 16}
    (h : routeFixed p want len = .path p' q) : p' = p ∧ len.toNat = want ∧ q = 0 := by
  unfold routeFixed at h
  split_ifs at h with hlen
  cases h
  exact ⟨rfl, hlen, rfl⟩

/-- No path is chosen for an empty body. -/
theorem len_pos_of_route {cfg : Config} {ty : Byte} {len : Half} {p : DPath} {q : BitVec 16}
    (h : route cfg ty len = .path p q) : 0 < len.toNat := by
  unfold route at h
  split_ifs at h
  case pos | pos =>
    obtain ⟨_, hlegal, _⟩ := routeSized_eq_path h
    exact Nat.lt_of_lt_of_le (by decide) hlegal
  case pos | pos =>
    obtain ⟨_, hlen, _⟩ := routeFixed_eq_path h
    rw [hlen]
    decide

/-- The part of the decoder's invariant that enables D_BODY and D_SKIP: there is something left to take (R137, R148). -/
def DecoderState.CanContinue (d : DecoderState) : Prop :=
  (d.phase = .dBody → d.pos < d.len) ∧ (d.phase = .dSkip → d.rem ≠ 0)

theorem DecoderState.Inv.canContinue {cfg : Config} {d : DecoderState} (h : d.Inv cfg) : d.CanContinue := by
  obtain ⟨_, hphase⟩ := h
  constructor
  · intro hp
    rw [hp] at hphase
    obtain ⟨hlt, _⟩ := hphase
    exact hlt
  · intro hp
    rw [hp] at hphase
    obtain ⟨hrem, _⟩ := hphase
    bv_omega

theorem DecoderState.canContinue_of_phase {d : DecoderState} (hb : d.phase ≠ .dBody) (hs : d.phase ≠ .dSkip) :
    d.CanContinue :=
  ⟨fun h => absurd h hb, fun h => absurd h hs⟩

theorem State.finishFrame_phase (s : State) : s.finishFrame.dec.phase = .dSync := by
  unfold State.finishFrame
  split <;> rfl

theorem State.advanceBody_canContinue {s : State} (h : s.dec.pos < s.dec.len) : s.advanceBody.dec.CanContinue := by
  rw [State.advanceBody_dec]
  split
  · exact DecoderState.canContinue_of_phase nofun nofun
  · exact ⟨fun _ => by show s.dec.pos + 1 < s.dec.len; bv_omega, nofun⟩

theorem State.countSkip_canContinue (s : State) : s.countSkip.dec.CanContinue := by
  rw [State.countSkip_dec]
  split
  · exact DecoderState.canContinue_of_phase nofun nofun
  · next hrem => exact ⟨nofun, fun _ => hrem⟩

theorem DecoderMove.canContinue {s t : State} (h : DecoderMove s t) (hc : s.dec.CanContinue) : t.dec.CanContinue := by
  cases h with
  | wait => exact hc
  | discard hp _ _ => exact DecoderState.canContinue_of_phase (by simp [hp]) (by simp [hp])
  | marker | lenHi | lenLo => exact DecoderState.canContinue_of_phase (by simp) (by simp)
  | path p q _ _ hr =>
    have hlen := len_pos_of_route hr
    exact ⟨fun _ => by rw [State.enterBody_dec]; show (0 : BitVec 16) < s.dec.len; bv_omega, nofun⟩
  | report k _ _ hr _ =>
    rw [State.raise_eq]
    split
    · exact DecoderState.canContinue_of_phase nofun nofun
    · exact ⟨nofun, fun _ => by show s.dec.len.setWidth 17 + 1 ≠ 0; bv_omega⟩
  | body d _ _ hlt hst =>
    refine State.advanceBody_canContinue ?_
    show d.pos < d.len
    rw [store_frame hst]
    exact hlt
  | cksum =>
    exact DecoderState.canContinue_of_phase (by simp [State.finishFrame_phase]) (by simp [State.finishFrame_phase])
  | skip => exact State.countSkip_canContinue _

/-- With a visible byte and a ready host the DECODER has a step (R130, R133, R172). -/
theorem decoderEnabled_of_avail {s : State} (ha : s.avail = true) (he : s.port.evReady = true)
    (hc : s.dec.CanContinue) : s.decoderEnabled = true := by
  unfold State.decoderEnabled
  rw [ha, Bool.true_and]
  split
  · rfl
  · rfl
  · rfl
  · split
    · rfl
    · exact he
  · next hp => exact decide_eq_true (hc.1 hp)
  · exact he
  · next hp => exact decide_eq_true (hc.2 hp)

/-- A step the DECODER has pops a byte, or it is D_TYPE, which leaves its phase (R136). -/
theorem DecoderMove.pops_or_leaves_dType {s t : State} (h : DecoderMove s t) (he : s.decoderEnabled = true) :
    t.head = s.head + 1 ∨ s.dec.phase = .dType ∧ t.dec.phase ≠ .dType := by
  cases h with
  | wait hw => exact absurd he (by simp [hw])
  | discard | marker | lenHi | lenLo | body | skip => exact .inl rfl
  | path p q hp => exact .inr ⟨hp, nofun⟩
  | report k hp =>
    refine .inr ⟨hp, ?_⟩
    rw [State.raise_eq]
    split <;> exact nofun
  | cksum =>
    obtain ⟨d, e, heq⟩ := (s.popByte true).finishFrame_eq
    exact .inl (by rw [heq]; rfl)

/-- Only the DECODER's turn writes the decoder's registers (R22). -/
theorem ByteMove.dec_eq {s t : State} {x : Turn} (h : ByteMove s x t) (hx : x ≠ .decoder) : t.dec = s.dec := by
  cases h with
  | rx b t h => rcases rxInterrupt_cases h with rfl | ⟨_, rfl⟩ | ⟨_, rfl⟩ <;> rfl
  | decoder => exact absurd rfl hx
  | encoder t h => obtain ⟨e, cs, r, bs, rfl⟩ := encoderStep_frame h; rfl
  | sync c => exact State.syncViews_dec s _ _
  | command c => exact State.offer_dec s c

theorem ByteMove.canContinue {s t : State} {x : Turn} (h : ByteMove s x t) (hc : s.dec.CanContinue) :
    t.dec.CanContinue := by
  by_cases hx : x = .decoder
  · subst hx
    cases h with
    | decoder t h => exact (decoderStep_move h).canContinue hc
  · rw [h.dec_eq hx]; exact hc

/-! ### Endless runs of byte steps with a ready host -/

/-- A weakly fair run of byte steps from a good state, with a host that is always ready: what the service of the ring rests
on. -/
structure ServedRun (turns : Nat → Turn) (states : Nat → State) : Prop where
  fair : FairRun turns states
  byte : ∀ m, byteTurn (turns m) = true
  ready : ∀ m, (states m).port.evReady = true
  start : (states 0).Inv

section
variable {turns : Nat → Turn} {states : Nat → State} {n : Nat}

theorem ServedRun.move (h : ServedRun turns states) (m : Nat) : ByteMove (states m) (turns m) (states (m + 1)) :=
  byteMove_iff.2 ⟨h.byte m, h.fair.run m⟩

theorem ServedRun.ringInv (h : ServedRun turns states) : ∀ m, (states m).RingInv
  | 0 => have ⟨hring, _⟩ := h.start; hring
  | m + 1 => (h.move m).ringMove.ringInv (h.ringInv m)

theorem ServedRun.canContinue (h : ServedRun turns states) : ∀ m, (states m).dec.CanContinue
  | 0 => have ⟨_, hdec, _⟩ := h.start; hdec.canContinue
  | m + 1 => (h.move m).canContinue (h.canContinue m)

/-- `head` comes to its next value, or it stays for ever. -/
theorem ServedRun.head_advances_or_stays (h : ServedRun turns states) (n : Nat) :
    (∃ m, n ≤ m ∧ (states m).head = (states n).head + 1) ∨ ∀ m, n ≤ m → (states m).head = (states n).head := by
  by_contra hcon
  obtain ⟨hnever, hmoves⟩ := not_or.1 hcon
  refine hmoves fun m hm => ?_
  induction m, hm using Nat.le_induction with
  | base => rfl
  | succ m hm ih =>
    rcases (h.move m).ringMove.head_cases with hh | hh
    · rw [hh, ih]
    · exact absurd ⟨m + 1, by omega, by rw [hh, ih]⟩ hnever

/-- While `head` stays, an unread byte stays unread. -/
theorem ServedRun.count_ne_zero (h : ServedRun turns states) (hstay : ∀ m, n ≤ m → (states m).head = (states n).head)
    (hc : (states n).count ≠ 0) : ∀ m, n ≤ m → (states m).count ≠ 0 := by
  intro m hm
  induction m, hm using Nat.le_induction with
  | base => exact hc
  | succ m hm ih =>
    exact (h.move m).ringMove.count_ne_zero (h.ringInv m) ((hstay _ (by omega)).trans (hstay m hm).symm) ih

/-- While `head` stays, a visible byte stays visible. -/
theorem ServedRun.avail (h : ServedRun turns states) (hstay : ∀ m, n ≤ m → (states m).head = (states n).head)
    (ha : (states n).avail = true) : ∀ m, n ≤ m → (states m).avail = true := by
  intro m hm
  induction m, hm using Nat.le_induction with
  | base => exact ha
  | succ m hm ih =>
    exact (h.move m).ringMove.avail (h.ringInv m) ((hstay _ (by omega)).trans (hstay m hm).symm) ih

/-- While a byte is visible, the DECODER takes a turn again. -/
theorem ServedRun.decoder_turn (h : ServedRun turns states) (ha : ∀ m, n ≤ m → (states m).avail = true) :
    ∃ m, n ≤ m ∧ turns m = .decoder := by
  obtain ⟨m, hm, hturn | hdisabled⟩ := h.fair.decoder n
  · exact ⟨m, hm, hturn⟩
  · have henabled := decoderEnabled_of_avail (ha m hm) (h.ready m) (h.canContinue m)
    rw [hdisabled] at henabled
    cases henabled

/-- A DECODER turn with a visible byte that leaves `head` is D_TYPE. -/
theorem ServedRun.dType_of_head_eq (h : ServedRun turns states) {m : Nat} (hturn : turns m = .decoder)
    (ha : (states m).avail = true) (hh : (states (m + 1)).head = (states m).head) :
    (states m).dec.phase = .dType ∧ (states (m + 1)).dec.phase ≠ .dType := by
  have hstep : decoderStep (states m) = .next (states (m + 1)) := by
    rw [← step_present_decoder, ← hturn]
    exact h.fair.run m
  have henabled := decoderEnabled_of_avail ha (h.ready m) (h.canContinue m)
  rcases (decoderStep_move hstep).pops_or_leaves_dType henabled with hpop | hleaves
  · rw [hpop] at hh
    exact absurd hh (by simp)
  · exact hleaves

/-- A visible byte does not stay at `head` for ever: at most one DECODER turn is D_TYPE, and the next one pops. -/
theorem ServedRun.head_moves_of_avail (h : ServedRun turns states) (ha : (states n).avail = true) :
    ¬ ∀ m, n ≤ m → (states m).head = (states n).head := by
  intro hstay
  have havail := h.avail hstay ha
  have dType : ∀ m, n ≤ m → turns m = .decoder →
      (states m).dec.phase = .dType ∧ (states (m + 1)).dec.phase ≠ .dType := fun m hm hturn =>
    h.dType_of_head_eq hturn (havail m hm) ((hstay _ (by omega)).trans (hstay m hm).symm)
  obtain ⟨k, hnk, hk⟩ := h.decoder_turn havail
  have hleft : ∀ m, k + 1 ≤ m → (states m).dec.phase ≠ .dType := by
    intro m hm
    induction m, hm using Nat.le_induction with
    | base => exact (dType k hnk hk).2
    | succ m hm ih =>
      by_cases hturn : turns m = .decoder
      · exact (dType m (by omega) hturn).2
      · rw [(h.move m).dec_eq hturn]; exact ih
  obtain ⟨m, hkm, hm⟩ := h.decoder_turn (n := k + 1) fun m hm => havail m (by omega)
  exact hleft m hkm (dType m (by omega) hm).1

/-- The oldest unread byte is popped in the end (R49, R100). -/
theorem ServedRun.unread_byte_is_popped (h : ServedRun turns states) (hc : (states n).count ≠ 0) :
    ∃ m, n ≤ m ∧ (states m).head = (states n).head + 1 := by
  rcases h.head_advances_or_stays n with hpops | hstay
  · exact hpops
  · obtain ⟨k, hnk, hview⟩ := h.fair.tailView_catches_up n
    have ha : (states k).avail = true := avail_of_tailView_eq hview (h.count_ne_zero hstay hc k hnk)
    exact absurd (fun m hkm => (hstay m (by omega)).trans (hstay k hnk).symm) (h.head_moves_of_avail ha)

end

/-- Settles O60: both views catch up in every fair run, and a run of byte steps with a ready host serves the ring. -/
theorem fairRunsServeTheRing : Obligations.FairRunsServeTheRing := by
  intro turns states hf
  refine ⟨hf.tailView_catches_up, hf.headView_catches_up, fun hinv hpremise n hc => ?_⟩
  obtain ⟨hbyte, hready⟩ := forall_and.1 hpremise
  exact (ServedRun.mk hf hbyte hready hinv).unread_byte_is_popped hc

end Sys2Proof.Machine
end

section
/-! SUPPORT. Who writes what (R22): every row of an agent, run in any phase, writes that agent's state only; and what
RESET puts (R200). -/

namespace Sys2Proof.Machine

/-! ### The PRODUCER and SYNC -/

/-- PUSH stores the byte, or waits on a full ring (R91). -/
theorem execPush_cases {b : Byte} {s t : State} (h : execPush b s = .next t) :
    t = s ∨ s.fullP = false ∧ t = s.pushByte b := by
  unfold execPush at h
  split at h
  · cases h; exact .inl rfl
  · next hf => cases h; exact .inr ⟨by simpa using hf, rfl⟩

/-- PUSH_DROP drops the byte, or waits on a ring with room (R92). -/
theorem execPushDrop_cases {b : Byte} {s t : State} (h : execPushDrop b s = .next t) :
    t = s ∨ s.fullP = true ∧ t = s.dropByte b := by
  unfold execPushDrop at h
  split at h
  · next hf => cases h; exact .inr ⟨hf, rfl⟩
  · cases h; exact .inl rfl

/-- Settles O17: PUSH is the one writer of the ring, and it writes the slot at `tail`. -/
theorem producerAndSyncWriteOnlyTheirOwn : Obligations.ProducerAndSyncWriteOnlyTheirOwn := by
  intro b x y s t hw
  constructor
  · rintro (h | h)
    · rcases execPush_cases h with rfl | ⟨_, rfl⟩
      · exact ⟨rfl, rfl, rfl, rfl, rfl, fun _ _ => rfl⟩
      · refine ⟨rfl, rfl, rfl, rfl, rfl, fun a ha => ?_⟩
        rw [State.pushByte_ring, Memory.read_write hw, if_neg ha]
    · rcases execPushDrop_cases h with rfl | ⟨_, rfl⟩ <;> exact ⟨rfl, rfl, rfl, rfl, rfl, fun _ _ => rfl⟩
  · intro h
    cases h
    exact ⟨State.syncViews_head s x y, State.syncViews_tail s x y, State.syncViews_ring s x y,
      State.syncViews_dec s x y, State.syncViews_enc s x y, State.syncViews_port s x y⟩

/-! ### The DECODER -/

/-- The PHASE rows of the DECODER (R131 to R148). -/
def decoderRow : Instr → Bool
  | .dSyncDiscard | .dSyncMarker | .dLenHi | .dLenLo | .dType | .dBody | .dCksum | .dSkip => true
  | _ => false

/-- A row of the DECODER that the phase register does not select waits. -/
theorem exec_decoderRow_not_selected {i : Instr} {s : State} (hi : decoderRow i = true) (hsel : decoderInstr s ≠ i) :
    exec i s = .next s := by
  cases i <;> cases hi <;> exact if_neg fun hc => hsel (by simp [decoderInstr, hc])

/-- A row of the DECODER, run alone, waits or takes the DECODER's own step (R130). -/
theorem exec_decoderRow_cases {i : Instr} {s t : State} (hi : decoderRow i = true) (h : exec i s = .next t) :
    t = s ∨ DecoderMove s t := by
  by_cases hsel : decoderInstr s = i
  · exact .inr (decoderStep_move (by rw [decoderStep_eq_exec, hsel, h]))
  · rw [exec_decoderRow_not_selected hi hsel] at h
    cases h
    exact .inl rfl

/-- POP, run alone, takes a visible byte and shows it, or waits (R93). -/
theorem execPop_cases {feed : Bool} {s t : State} (h : execPop feed s = .next t) :
    t = s ∨ s.avail = true ∧ t = (s.popByte feed).answer (.byte s.headByte) := by
  unfold execPop at h
  split at h
  · next ha => cases h; exact .inr ⟨ha, rfl⟩
  · cases h; exact .inl rfl

/-- PEEK, run alone, shows a visible byte, or waits (R94). -/
theorem execPeek_cases {s t : State} (h : execPeek s = .next t) : t = s ∨ t = s.answer (.byte s.headByte) := by
  unfold execPeek at h
  split at h <;> cases h
  · exact .inr rfl
  · exact .inl rfl

/-- Settles O18: the bare ring operations write `head`, the sum and the result; a PHASE row writes what the DECODER's step
writes. -/
theorem decoderStepsWriteOnlyTheirOwn : Obligations.DecoderStepsWriteOnlyTheirOwn := by
  intro i s t hi h
  have phaseRow : decoderRow i = true →
      t = { s with head := t.head, dec := t.dec, port := { s.port with events := t.port.events, ret := t.port.ret } } := by
    intro hrow
    rcases exec_decoderRow_cases hrow h with rfl | hmove
    · rfl
    · obtain ⟨hd, d, es, rfl, _⟩ := hmove.frame
      rfl
  rcases hi with ⟨feed, rfl⟩ | rfl | rfl | hphase
  · rcases execPop_cases h with rfl | ⟨_, rfl⟩ <;> rfl
  · rcases execPeek_cases h with rfl | rfl <;> rfl
  · cases h; rfl
  · refine phaseRow ?_
    rcases hphase with rfl | rfl | rfl | rfl | rfl | rfl | rfl | rfl <;> rfl

/-! ### The ENCODER -/

/-- The PHASE rows of the ENCODER (R111 to R116). -/
def encoderRow : Instr → Bool
  | .cmdAccept | .eStart | .eLen | .eBody | .eCksum => true
  | _ => false

/-- A row of the ENCODER that the phase register does not select waits. -/
theorem exec_encoderRow_not_selected {i : Instr} {s : State} (hi : encoderRow i = true) (hsel : encoderInstr s ≠ i) :
    exec i s = .next s := by
  cases i <;> cases hi
  case cmdAccept =>
    show execCmdAccept s = _
    unfold execCmdAccept
    split
    · rfl
    · exact if_neg fun hp => hsel (by simp [encoderInstr, hp])
  case eLen =>
    refine (if_neg fun hc => hsel ?_).trans (if_neg fun hc => hsel ?_) <;> simp [encoderInstr, hc]
  all_goals exact if_neg fun hc => hsel (by simp [encoderInstr, hc])

/-- A row of the ENCODER, run alone, waits or takes the ENCODER's own step. -/
theorem exec_encoderRow_cases {i : Instr} {s t : State} (hi : encoderRow i = true) (h : exec i s = .next t) :
    t = s ∨ encoderStep s = .next t := by
  by_cases hsel : encoderInstr s = i
  · exact .inr (by rw [encoderStep_eq_exec, hsel, h])
  · rw [exec_encoderRow_not_selected hi hsel] at h
    cases h
    exact .inl rfl

/-- Settles O19: an ENCODER row writes what the ENCODER's step writes, or waits. -/
theorem encoderStepsWriteOnlyTheirOwn : Obligations.EncoderStepsWriteOnlyTheirOwn := by
  intro i s t hi h
  have hrow : encoderRow i = true := by rcases hi with rfl | rfl | rfl | rfl | rfl <;> rfl
  rcases exec_encoderRow_cases hrow h with rfl | hstep
  · rfl
  · obtain ⟨e, cs, r, bs, rfl⟩ := encoderStep_frame hstep
    rfl

/-! ### RESET -/

/-- With equal indices and views no byte is visible (R90). -/
theorem avail_eq_false_of_views {s : State} (htail : s.tail = s.head) (htailC : s.tailC = s.head) : s.avail = false := by
  cases hc : s.cfg.cdc with
  | synchronised => simp [State.avail, State.tailView_synchronised s hc, htailC]
  | atomic => simp [State.avail, State.tailView_atomic s hc, htail]

/-- RESET leaves stores of canonical form, whatever free values they hold (R21, assumption 3). -/
theorem execReset_stores_wf {s t : State} (h : execReset s = .next t) :
    t.ring.wf Config.ringN = true ∧ t.dec.rxp.wf s.cfg.rxpMax = true ∧ t.enc.txp.wf Config.payloadTxMax = true := by
  cases h
  simp only [DecoderState.freeReset, EncoderState.freeReset, Memory.free_wf, and_self]

/-- Settles O59: RESET writes the reset values of R21, and the free stores keep the canonical form. -/
theorem resetPutsTheResetValues : Obligations.ResetPutsTheResetValues := by
  intro s
  obtain ⟨t, ht⟩ : ∃ t, execReset s = .next t := ⟨_, rfl⟩
  obtain ⟨hring, hrxp, htxp⟩ := execReset_stores_wf ht
  refine ⟨t, ht, ?_⟩
  cases ht
  exact ⟨rfl, rfl, rfl, rfl, rfl, rfl, rfl, rfl, avail_eq_false_of_views rfl rfl, hring, hrxp, htxp, by dsimp only⟩

end Sys2Proof.Machine
end

section
/-! SUPPORT. The layouts of the four decode paths and of the two sent frames (R114, R118, R138 to R143): which body offsets
they have, and that the invariant keeps both agents inside them. -/

namespace Sys2Proof.Machine

/-! ### Which offsets a layout has -/

/-- The offsets that a path's store function does not have, or that lie past the last slot of `RXP` (R19). -/
def DPath.outside (cfg : Config) (k : Nat) : DPath → Prop
  | .rx => cfg.rxpMax + 12 ≤ k
  | .atresp => cfg.rxpMax + 5 ≤ k
  | .modem => 2 ≤ k
  | .txstat => 7 ≤ k

/-- The offsets that a sent frame's body does not have (R15, R114, R118). -/
def EKind.outside (k : Nat) : EKind → Prop
  | .tx => 255 ≤ k
  | .atCmd => 4 ≤ k

theorem store_eq_none_iff {cfg : Config} {d : DecoderState} {k : Nat} {b : Byte} :
    store cfg d k b = none ↔ d.path.outside cfg k := by
  cases hp : d.path <;> simp only [store, hp, DPath.outside]
  case rx => simp only [storeRx, storeRxp]; split_ifs <;> simp <;> omega
  case atresp => simp only [storeAtresp, storeRxp]; split_ifs <;> simp <;> omega
  case modem => simp only [storeModem]; split_ifs <;> simp <;> omega
  case txstat => simp only [storeTxstat]; split_ifs <;> simp <;> omega

theorem bodyByte_eq_none_iff {e : EncoderState} {k : Nat} : bodyByte e k = none ↔ e.kind.outside k := by
  cases hk : e.kind <;> simp only [bodyByte, hk, EKind.outside]
  case tx => unfold bodyTxByte Config.payloadTxMax; split_ifs <;> simp <;> omega
  case atCmd => simp only [bodyAtByte]; split_ifs <;> simp <;> omega

/-! ### The invariant keeps the offsets inside -/

/-- A path's Length ends inside its layout (R72, R136). -/
theorem DecoderState.PathInv.inside {cfg : Config} {d : DecoderState} {k : Nat} (h : d.PathInv cfg)
    (hk : k < d.len.toNat) : ¬ d.path.outside cfg k := by
  cases hp : d.path <;> simp only [DecoderState.PathInv, hp] at h <;> simp only [DPath.outside] <;> omega

/-- A command's Length ends inside its layout (R111). -/
theorem EncoderState.LenInv.inside {e : EncoderState} {k : Nat} (h : e.LenInv) (hk : k < e.len.toNat) :
    ¬ e.kind.outside k := by
  cases hp : e.kind <;> simp only [EncoderState.LenInv, hp] at h <;> simp only [EKind.outside] <;> omega

theorem DecoderState.Inv.pathInv {cfg : Config} {d : DecoderState} (h : d.Inv cfg) (hp : d.phase = .dBody) :
    d.PathInv cfg := by
  obtain ⟨_, hphase⟩ := h
  rw [hp] at hphase
  exact hphase.2

theorem EncoderState.Inv.lenInv {e : EncoderState} (h : e.Inv) (hp : e.phase = .eBody) : e.LenInv := by
  obtain ⟨_, hphase⟩ := h
  rw [hp] at hphase
  exact hphase.2

/-! ### D_BODY and E_BODY -/

/-- D_BODY stops at an offset outside the path's layout (assumption 9). -/
theorem execDBody_outside {s : State} (hp : s.dec.phase = .dBody) (ha : s.avail = true) (hlt : s.dec.pos < s.dec.len)
    (hout : s.dec.path.outside s.cfg s.dec.pos.toNat) : execDBody s = .fault (.storeOffset s.dec.pos.toNat) := by
  have hnone : store s.cfg (s.popByte true).dec s.dec.pos.toNat s.headByte = none := store_eq_none_iff.2 hout
  simp only [execDBody, if_pos (And.intro hp (And.intro ha hlt)), hnone]

/-- D_BODY stops nowhere else. -/
theorem execDBody_inside {s : State}
    (hin : s.dec.phase = .dBody → s.dec.pos < s.dec.len → ¬ s.dec.path.outside s.cfg s.dec.pos.toNat) :
    ∃ t, execDBody s = .next t := by
  unfold execDBody
  split
  · next hc =>
    obtain ⟨hp, _, hlt⟩ := hc
    split
    · exact ⟨_, rfl⟩
    · next hnone => exact absurd (store_eq_none_iff.1 hnone) (hin hp hlt)
  · exact ⟨s, rfl⟩

/-- E_BODY stops at an offset outside the frame's layout (assumption 9). -/
theorem execEBody_outside {s : State} (hp : s.enc.phase = .eBody) (hr : s.port.txReady = true)
    (hlt : s.enc.pos < s.enc.len) (hout : s.enc.kind.outside s.enc.pos.toNat) :
    execEBody s = .fault (.bodyOffset s.enc.pos.toNat) := by
  simp only [execEBody, if_pos (And.intro hp (And.intro hr hlt)), bodyByte_eq_none_iff.2 hout]

/-- E_BODY stops nowhere else. -/
theorem execEBody_inside {s : State}
    (hin : s.enc.phase = .eBody → s.enc.pos < s.enc.len → ¬ s.enc.kind.outside s.enc.pos.toNat) :
    ∃ t, execEBody s = .next t := by
  unfold execEBody
  split
  · next hc =>
    obtain ⟨hp, _, hlt⟩ := hc
    split
    · exact ⟨_, rfl⟩
    · next hnone => exact absurd (bodyByte_eq_none_iff.1 hnone) (hin hp hlt)
  · exact ⟨s, rfl⟩

/-- Settles O35: both operations stop exactly outside the layout, where the invariant's Lengths do not reach. -/
theorem offsetsOutsideTheLayoutFault : Obligations.OffsetsOutsideTheLayoutFault := by
  intro s
  refine ⟨fun hp ha hlt hout => execDBody_outside hp ha hlt ?_, fun hp hr hlt hout => execEBody_outside hp hr hlt ?_,
    fun hinv => ?_⟩
  · rcases hout with ⟨hpath, hk⟩ | ⟨hpath, hk⟩ | ⟨hpath, hk⟩ | ⟨hpath, hk⟩ <;> rw [hpath] <;> exact hk
  · rcases hout with ⟨hkind, hk⟩ | ⟨hkind, hk⟩ <;> rw [hkind] <;> exact hk
  · obtain ⟨_, hdec, henc, _⟩ := hinv
    exact ⟨execDBody_inside fun hp hlt => (hdec.pathInv hp).inside hlt,
      execEBody_inside fun hp hlt => (henc.lenInv hp).inside hlt⟩

end Sys2Proof.Machine
end

section
/-! SUPPORT. The invariant of the machine (R23, R200, R201) through every step: first the DECODER's and the ENCODER's own
invariants along their moves, then a held reset, then byte turns, and last every other turn. -/

namespace Sys2Proof.Machine

/-! ### The DECODER's invariant -/

/-- A byte goes into a slot that `RXP` has (R19). -/
theorem storeRxp_rxp_wf {cfg : Config} {d d' : DecoderState} {i : Nat} {b : Byte} (h : storeRxp cfg d i b = some d')
    (hw : d.rxp.wf cfg.rxpMax = true) : d'.rxp.wf cfg.rxpMax = true := by
  unfold storeRxp at h
  split at h
  · next hslot => cases h; exact Memory.write_wf hw hslot
  · cases h

/-- `store` keeps the canonical form of `RXP` on every path. -/
theorem store_rxp_wf {cfg : Config} {d d' : DecoderState} {k : Nat} {b : Byte} (h : store cfg d k b = some d')
    (hw : d.rxp.wf cfg.rxpMax = true) : d'.rxp.wf cfg.rxpMax = true := by
  unfold store at h
  split at h
  · unfold storeRx at h
    split_ifs at h
    case neg => exact storeRxp_rxp_wf h hw
    all_goals cases h; exact hw
  · unfold storeAtresp at h
    split_ifs at h
    case neg => exact storeRxp_rxp_wf h hw
    all_goals cases h; exact hw
  · unfold storeModem at h
    split_ifs at h <;> cases h <;> exact hw
  · unfold storeTxstat at h
    split_ifs at h <;> cases h <;> exact hw

/-- A path that D_TYPE chooses has a legal Length and its payload length (R72, R136). -/
theorem pathInv_of_route {cfg : Config} {ty : Byte} {d : DecoderState} (h : route cfg ty d.len = .path d.path d.plen) :
    d.PathInv cfg := by
  unfold route at h
  split_ifs at h
  case pos | pos =>
    obtain ⟨hpath, hlegal, hfits, hplen⟩ := routeSized_eq_path h
    simp only [DecoderState.PathInv, hpath, hplen, Config.rxOverhead, Config.atrespOverhead] at *
    bv_omega
  case pos | pos =>
    obtain ⟨hpath, hlen, _⟩ := routeFixed_eq_path h
    simp only [DecoderState.PathInv, hpath]
    exact hlen

/-- `advanceBody` keeps the invariant: the position stays below the Length, or it is the Length in D_CKSUM (R137). -/
theorem State.advanceBody_inv {s : State} (hw : s.dec.rxp.wf s.cfg.rxpMax = true) (hlt : s.dec.pos < s.dec.len)
    (hpath : s.dec.PathInv s.cfg) : s.advanceBody.dec.Inv s.cfg := by
  rw [State.advanceBody_dec]
  split
  · next hend => exact ⟨hw, hend, hpath⟩
  · next hmore => exact ⟨hw, by show (s.dec.pos + 1).toNat < s.dec.len.toNat; bv_omega, hpath⟩

/-- The end of a frame leaves the DECODER's registers and goes to D_SYNC (R145, R146). -/
theorem State.finishFrame_dec (s : State) : s.finishFrame.dec = { s.dec with phase := .dSync } := by
  unfold State.finishFrame
  split <;> rfl

/-- `countSkip` keeps the invariant: what is left to skip is not 0, or the DECODER is in D_SYNC (R148). -/
theorem State.countSkip_inv {s : State} (hw : s.dec.rxp.wf s.cfg.rxpMax = true) (hle : s.dec.rem.toNat ≤ 65536)
    (hne : s.dec.rem ≠ 0) : s.countSkip.dec.Inv s.cfg := by
  rw [State.countSkip_dec]
  split
  · exact ⟨hw, trivial⟩
  · next hmore =>
    refine ⟨hw, ?_, ?_⟩
    · show 1 ≤ (s.dec.rem - 1).toNat
      bv_omega
    · show (s.dec.rem - 1).toNat ≤ 65536
      bv_omega

/-- A failure keeps the invariant: after one found at D_TYPE there are 1 to 65536 bytes to skip (R176). -/
theorem State.raise_inv {s : State} (hw : s.dec.rxp.wf s.cfg.rxpMax = true) (k : Failure) (ty : Byte) :
    (s.raise k ty).dec.Inv s.cfg := by
  rw [State.raise_eq]
  split
  · exact ⟨hw, trivial⟩
  · refine ⟨hw, ?_, ?_⟩
    · show 1 ≤ (s.dec.len.setWidth 17 + 1).toNat
      bv_omega
    · show (s.dec.len.setWidth 17 + 1).toNat ≤ 65536
      bv_omega

/-- Every step of the DECODER keeps its invariant. -/
theorem DecoderMove.dec_inv {s t : State} (h : DecoderMove s t) (hi : s.dec.Inv s.cfg) : t.dec.Inv s.cfg := by
  have ⟨hw, hphase⟩ := hi
  cases h with
  | wait => exact hi
  | discard => exact hi
  | marker | lenHi | lenLo => exact ⟨hw, trivial⟩
  | path p q _ _ hr =>
    have hpath : (s.enterBody p q).dec.PathInv s.cfg := pathInv_of_route hr
    have hlen := len_pos_of_route hr
    exact ⟨hw, by simpa using hlen, hpath⟩
  | report k => exact State.raise_inv hw k _
  | body d hp _ hlt hst =>
    have hkeep := store_frame hst
    refine State.advanceBody_inv (s := { s.popByte true with dec := d }) (store_rxp_wf hst hw) ?_ ?_
    · show d.pos < d.len
      rw [hkeep]
      exact hlt
    · show d.PathInv s.cfg
      rw [hkeep]
      exact hi.pathInv hp
  | cksum => rw [State.finishFrame_dec]; exact ⟨hw, trivial⟩
  | skip hp _ hne =>
    rw [hp] at hphase
    obtain ⟨_, hle⟩ := hphase
    exact State.countSkip_inv (s := s.popByte false) hw hle hne

/-! ### The ENCODER's invariant -/

/-- `EncoderMove s t`: the ENCODER's step from `s` leads to `t`, with the condition under which each phase's step is taken
(R111 to R116). -/
inductive EncoderMove (s : State) : State → Prop where
  | wait : s.encoderEnabled = false → EncoderMove s s
  | reject (c : Command) (cs : List Command) : s.enc.phase = .eIdle → s.port.cmds = c :: cs →
      commandOversized c = true → EncoderMove s (s.reply .rejected)
  | accept (c : Command) (cs : List Command) : s.enc.phase = .eIdle → s.port.cmds = c :: cs →
      commandOversized c = false → EncoderMove s { s.reply .accepted with enc := s.enc.latch c }
  | start : s.enc.phase = .eStart → s.port.txReady = true →
      EncoderMove s ((s.sendByte Config.start).toEPhase .eLenHi)
  | lenHi : s.enc.phase = .eLenHi → s.port.txReady = true →
      EncoderMove s ((s.sendByte (byteOf16 s.enc.len 0)).toEPhase .eLenLo)
  | lenLo : s.enc.phase = .eLenLo → s.port.txReady = true →
      EncoderMove s (((s.sendByte (byteOf16 s.enc.len 1)).clearTxSum).toEPhase .eBody)
  | body (b : Byte) : s.enc.phase = .eBody → s.port.txReady = true → s.enc.pos < s.enc.len →
      bodyByte s.enc s.enc.pos.toNat = some b → EncoderMove s ((s.sendByte b).addTxSum b).advanceSend
  | cksum : s.enc.phase = .eCksum → s.port.txReady = true →
      EncoderMove s ((s.sendByte s.txChecksum).toEPhase .eIdle)

/-- The ENCODER's step is one of its moves. -/
theorem encoderStep_move {s t : State} (h : encoderStep s = .next t) : EncoderMove s t := by
  unfold encoderStep at h
  split at h
  case h_1 hp =>
    unfold execCmdAccept at h
    split at h
    · next hc => cases h; exact .wait (by simp [State.encoderEnabled, hp, hc])
    · next c cs hc =>
      rw [if_pos hp] at h
      split at h
      · next hbig => cases h; exact .reject c cs hp hc hbig
      · next hfits => cases h; exact .accept c cs hp hc (by simpa using hfits)
  case h_2 hp =>
    unfold execEStart at h
    split at h
    · next hc => cases h; exact .start hp hc.2
    · next hc => cases h; exact .wait (by simpa [State.encoderEnabled, hp] using hc)
  case h_3 hp =>
    simp only [execELen, hp, true_and, reduceCtorEq, false_and, if_false] at h
    split at h
    · next hc => cases h; exact .lenHi hp hc
    · next hc => cases h; exact .wait (by simpa [State.encoderEnabled, hp] using hc)
  case h_4 hp =>
    simp only [execELen, hp, true_and, reduceCtorEq, false_and, if_false] at h
    split at h
    · next hc => cases h; exact .lenLo hp hc
    · next hc => cases h; exact .wait (by simpa [State.encoderEnabled, hp] using hc)
  case h_5 hp =>
    unfold execEBody at h
    split at h
    · next hc =>
      obtain ⟨_, hr, hlt⟩ := hc
      split at h
      · next b hb => cases h; exact .body b hp hr hlt hb
      · cases h
    · next hc => cases h; exact .wait (by simpa [State.encoderEnabled, hp] using hc)
  case h_6 hp =>
    unfold execECksum at h
    split at h
    · next hc => cases h; exact .cksum hp hc.2
    · next hc => cases h; exact .wait (by simpa [State.encoderEnabled, hp] using hc)

/-- A latched command has its Length, and its payload fits `TXP` (R15, R111). -/
theorem EncoderState.latch_inv {e : EncoderState} (hw : e.txp.wf Config.payloadTxMax = true) {c : Command}
    (hc : commandOversized c = false) : (e.latch c).Inv := by
  cases c with
  | txFrame id a64 a16 rad opt payload =>
    have hlen : payload.length ≤ 241 := Nat.not_lt.1 (of_decide_eq_false hc)
    refine ⟨Memory.writeList_wf hw (by rwa [Nat.zero_add]), rfl, ?_⟩
    simp only [EncoderState.LenInv, EncoderState.latch, Config.txOverhead]
    bv_omega
  | atFrame => exact ⟨hw, rfl, rfl⟩

/-- `advanceSend` keeps the invariant: the position stays below the Length, or it is the Length in E_CKSUM (R115). -/
theorem State.advanceSend_inv {s : State} (hw : s.enc.txp.wf Config.payloadTxMax = true) (hlt : s.enc.pos < s.enc.len)
    (hlen : s.enc.LenInv) : s.advanceSend.enc.Inv := by
  rw [State.advanceSend_enc]
  split
  · next hend => exact ⟨hw, hend, hlen⟩
  · next hmore => exact ⟨hw, by show (s.enc.pos + 1).toNat < s.enc.len.toNat; bv_omega, hlen⟩

/-- A Length of a command is not 0 (R111). -/
theorem EncoderState.LenInv.len_pos {e : EncoderState} (h : e.LenInv) : 0 < e.len.toNat := by
  cases hk : e.kind <;> simp only [EncoderState.LenInv, hk] at h <;> omega

/-- Every step of the ENCODER keeps its invariant. -/
theorem EncoderMove.enc_inv {s t : State} (h : EncoderMove s t) (hi : s.enc.Inv) : t.enc.Inv := by
  have ⟨hw, hphase⟩ := hi
  cases h with
  | wait | reject => exact hi
  | accept c cs _ _ hc => exact EncoderState.latch_inv hw hc
  | start hp | lenHi hp =>
    rw [hp] at hphase
    exact ⟨hw, hphase⟩
  | lenLo hp =>
    rw [hp] at hphase
    obtain ⟨hpos, hlen⟩ := hphase
    refine ⟨hw, ?_, hlen⟩
    show s.enc.pos.toNat < s.enc.len.toNat
    rw [hpos]
    exact hlen.len_pos
  | body b hp _ hlt =>
    exact State.advanceSend_inv (s := (s.sendByte b).addTxSum b) hw hlt (hi.lenInv hp)
  | cksum => exact ⟨hw, trivial⟩

/-! ### A held reset -/

/-- Without a visible byte the DECODER waits (R130). -/
theorem DecoderMove.eq_of_not_avail {s t : State} (h : DecoderMove s t) (ha : s.avail = false) : t = s := by
  cases h
  case wait => rfl
  all_goals exact absurd ‹s.avail = true› (by simp [ha])

/-- With no command on `cmd` an idle ENCODER waits (R111). -/
theorem encoderStep_of_no_command {s : State} (hp : s.enc.phase = .eIdle) (hc : s.port.cmds = []) :
    encoderStep s = .next s := by
  simp [encoderStep, execCmdAccept, wait, hp, hc]

/-- SYNC leaves views that are current (R98). -/
theorem State.syncViews_of_current {s : State} (htail : s.tailC = s.tail) (hhead : s.headP = s.head) (a b : Bool) :
    s.syncViews a b = s := by
  have hc : (if a then s.tail else s.tailC) = s.tailC := by rw [htail, ite_self]
  have hp : (if b then s.head else s.headP) = s.headP := by rw [hhead, ite_self]
  unfold State.syncViews
  split
  · rw [hc, hp]
  · rfl

/-- While `rst` is held, no byte turn changes the block: no byte or command gets in, and at the reset values no agent has
anything to do (R174, R201, R203). -/
theorem ByteMove.eq_of_held {s t : State} {x : Turn} (h : ByteMove s x t) (hr : s.port.rst = true)
    (hheld : s.HeldInReset) : t = s := by
  obtain ⟨hhead, htail, hheadP, htailC, hdphase, hephase, _, _, hcmds⟩ := hheld hr
  cases h with
  | rx b t h => rw [rxInterrupt_in_reset hr] at h; cases h; rfl
  | decoder t h =>
    exact (decoderStep_move h).eq_of_not_avail
      (avail_eq_false_of_views (htail.trans hhead.symm) (htailC.trans hhead.symm))
  | encoder t h => rw [encoderStep_of_no_command hephase hcmds] at h; cases h; rfl
  | sync c => exact State.syncViews_of_current (htailC.trans htail.symm) (hheadP.trans hhead.symm) _ _
  | command c => exact State.offer_in_reset hr c

/-- No byte turn drives `rst` (R8). -/
theorem ByteMove.rst_eq {s t : State} {x : Turn} (h : ByteMove s x t) : t.port.rst = s.port.rst := by
  cases h with
  | rx b t h => rcases rxInterrupt_cases h with rfl | ⟨_, rfl⟩ | ⟨_, rfl⟩ <;> rfl
  | decoder t h => obtain ⟨hd, d, es, rfl, _⟩ := (decoderStep_move h).frame; rfl
  | encoder t h => obtain ⟨e, cs, r, bs, rfl⟩ := encoderStep_frame h; rfl
  | sync c => rw [State.syncViews_port]
  | command c => rw [State.offer_port]; split <;> rfl

theorem ByteMove.heldInReset {s t : State} {x : Turn} (h : ByteMove s x t) (hheld : s.HeldInReset) :
    t.HeldInReset := by
  intro hr
  have hrs : s.port.rst = true := h.rst_eq ▸ hr
  rw [h.eq_of_held hrs hheld]
  exact hheld hrs

/-! ### Byte turns and whole frames -/

/-- Only the ENCODER's turn writes the encoder's registers (R22). -/
theorem ByteMove.enc_eq {s t : State} {x : Turn} (h : ByteMove s x t) (hx : x ≠ .encoder) : t.enc = s.enc := by
  cases h with
  | rx b t h => rcases rxInterrupt_cases h with rfl | ⟨_, rfl⟩ | ⟨_, rfl⟩ <;> rfl
  | decoder t h => obtain ⟨hd, d, es, rfl, _⟩ := (decoderStep_move h).frame; rfl
  | encoder => exact absurd rfl hx
  | sync c => exact State.syncViews_enc s _ _
  | command c => exact State.offer_enc s c

theorem ByteMove.dec_inv {s t : State} {x : Turn} (h : ByteMove s x t) (hi : s.dec.Inv s.cfg) : t.dec.Inv t.cfg := by
  rw [h.grows.cfg]
  by_cases hx : x = .decoder
  · subst hx
    cases h with
    | decoder t h => exact (decoderStep_move h).dec_inv hi
  · rw [h.dec_eq hx]; exact hi

theorem ByteMove.enc_inv {s t : State} {x : Turn} (h : ByteMove s x t) (hi : s.enc.Inv) : t.enc.Inv := by
  by_cases hx : x = .encoder
  · subst hx
    cases h with
    | encoder t h => exact (encoderStep_move h).enc_inv hi
  · rw [h.enc_eq hx]; exact hi

theorem ByteMove.inv {s t : State} {x : Turn} (h : ByteMove s x t) (hi : s.Inv) : t.Inv := by
  obtain ⟨hring, hdec, henc, hheld⟩ := hi
  exact ⟨h.ringMove.ringInv hring, h.dec_inv hdec, h.enc_inv henc, h.heldInReset hheld⟩

theorem ByteReach.inv {s t : State} (h : ByteReach s t) (hi : s.Inv) : t.Inv := by
  induction h with
  | refl => exact hi
  | tail _ hstep ih => exact hstep.choose_spec.inv ih

/-- A whole frame is byte steps (R7), and the turns to come are no part of the invariant. -/
theorem step_present_frame_inv {s t : State} {dir : Direction} {bytes : List Byte}
    (h : step (s.present (.frame dir bytes)) = .next t) (hi : s.Inv) : t.Inv := by
  cases hd : decode s.cfg dir bytes with
  | ok r =>
    obtain ⟨i, more⟩ := r
    rw [step_present_frame_ok hd] at h
    exact (exec_frame_reach (decode_encode_isSome hd) h).inv hi
  | error e =>
    rw [step_present_frame_error hd] at h
    cases dir with
    | received => exact (receiveBytes_reach h).inv hi
    | sent => cases h; exact hi

/-! ### The other turns -/

/-- An empty ring with canonical storage and current views meets the ring's invariant. -/
theorem ringInv_of_empty {s : State} (hw : s.ring.wf Config.ringN = true) (htail : s.tail = s.head)
    (htailC : s.tailC = s.head) (hheadP : s.headP = s.head) : s.RingInv := by
  have htv : s.tailView = s.head := by unfold State.tailView; split <;> assumption
  have hhv : s.headView = s.head := by unfold State.headView; split <;> [exact hheadP; rfl]
  have hcount : s.count = 0 := by simp [State.count, htail]
  exact ⟨hw, by simp [hcount], by simp [hcount, htv], by simp [hcount, hhv]⟩

/-- RESET establishes the invariant from every state (R200, R201). -/
theorem execReset_inv {s t : State} (h : execReset s = .next t) : t.Inv := by
  obtain ⟨hring, hrxp, htxp⟩ := execReset_stores_wf h
  cases h
  exact ⟨ringInv_of_empty hring rfl rfl rfl, ⟨hrxp, trivial⟩, ⟨htxp, trivial⟩,
    fun _ => ⟨rfl, rfl, rfl, rfl, rfl, rfl, rfl, rfl, rfl⟩⟩

/-- Settles O12: the state after reset is an empty ring with both agents at their first phase. -/
theorem resetMeetsTheInvariant : Obligations.ResetMeetsTheInvariant := by
  obtain ⟨hring, hrxp, htxp⟩ := reset_stores_wf
  exact ⟨ringInv_of_empty hring rfl rfl rfl, ⟨hrxp, trivial⟩, ⟨htxp, trivial⟩, nofun⟩

/-- A bare POP keeps the invariant: it moves `head` and the sum only, and in a held reset nothing is visible (R93). -/
theorem execPop_inv {feed : Bool} {s t : State} (h : execPop feed s = .next t) (hi : s.Inv) : t.Inv := by
  rcases execPop_cases h with rfl | ⟨ha, rfl⟩
  · exact hi
  · obtain ⟨hring, hdec, henc, hheld⟩ := hi
    refine ⟨RingInv_popByte hring ha feed, hdec, henc, fun hr => ?_⟩
    obtain ⟨hhead, htail, _, htailC, _⟩ := hheld hr
    rw [avail_eq_false_of_views (htail.trans hhead.symm) (htailC.trans hhead.symm)] at ha
    cases ha

theorem step_present_inv {s t : State} {x : Turn} (h : step (s.present x) = .next t) (hi : s.Inv) : t.Inv := by
  cases hx : byteTurn x with
  | true => exact (byteMove_iff.2 ⟨hx, h⟩).inv hi
  | false =>
    cases x with
    | rx | decoder | encoder | sync | command => cases hx
    | pop feed => exact execPop_inv h hi
    | peek => rcases execPeek_cases h with rfl | rfl <;> exact hi
    | reset => exact execReset_inv h
    | rst level =>
      cases level with
      | true => exact execReset_inv (s := { s with port := { s.port with rst := true } }) h
      | false =>
        cases h
        obtain ⟨hring, hdec, henc, _⟩ := hi
        exact ⟨hring, hdec, henc, nofun⟩
    | sample | txReady | evReady => cases h; exact hi
    | frame dir bytes => exact step_present_frame_inv h hi

/-- The turns to come and the counter are no part of the invariant. -/
theorem fetchTurn_inv {s : State} (hi : s.Inv) : (fetchTurn s).2.Inv := by
  unfold fetchTurn
  split <;> exact hi

/-- Settles O13: a step takes the turn it fetched, and every turn keeps the invariant. -/
theorem everyStepKeepsTheInvariant : Obligations.EveryStepKeepsTheInvariant := by
  intro s t hi h
  exact step_present_inv (s := (fetchTurn s).2) (x := (fetchTurn s).1) h (fetchTurn_inv hi)

end Sys2Proof.Machine
end

section
/-! SUPPORT. The ring as a queue (R47, R52, R100): what each ring operation does to the unread bytes, and what a run of
them adds up to. -/

namespace Sys2Proof.Machine

/-! ### The unread bytes under the ring operations -/

@[simp] theorem State.unread_length (s : State) : s.unread.length = s.count := by simp [State.unread]

@[simp] theorem State.unread_dropByte (s : State) (b : Byte) : (s.dropByte b).unread = s.unread := rfl

@[simp] theorem State.unread_answer (s : State) (r : Result) : (s.answer r).unread = s.unread := rfl

@[simp] theorem State.unread_syncViews (s : State) (a b : Bool) : (s.syncViews a b).unread = s.unread := by
  simp [State.unread, State.count]

/-- A producer that does not see a full ring has room, so `tail` does not run into `head`. -/
theorem count_pushByte {s : State} (hi : s.RingInv) (hf : s.fullP = false) (b : Byte) :
    (s.pushByte b).count = s.count + 1 := by
  have hpos := count_pushByte_ne_zero hi hf b
  unfold State.count at *
  rw [State.pushByte_tail, State.pushByte_head] at *
  bv_omega

theorem count_popByte {s : State} (hi : s.RingInv) (ha : s.avail = true) (feed : Bool) :
    s.count = (s.popByte feed).count + 1 := by
  have hpos := RingInv_count_pos hi ha
  unfold State.count at *
  rw [State.popByte_tail, State.popByte_head]
  bv_omega

/-- An unread slot is not the one that PUSH writes. -/
theorem unread_slot_ne_tail {s : State} {i : Nat} (h : i < s.count) :
    (s.head + BitVec.ofNat 8 i).toNat ≠ s.tail.toNat := by
  unfold State.count at h
  bv_omega

theorem head_add_count (s : State) : s.head + BitVec.ofNat 8 s.count = s.tail := by
  unfold State.count
  bv_omega

/-- PUSH appends its byte to the unread ones (R91). -/
theorem unread_pushByte {s : State} (hi : s.RingInv) (hf : s.fullP = false) (b : Byte) :
    (s.pushByte b).unread = s.unread ++ [b] := by
  have ⟨hwf, _⟩ := hi
  have hread := Memory.read_write hwf s.tail.toNat b
  unfold State.unread
  rw [count_pushByte hi hf b, List.range_succ, List.map_append, State.pushByte_ring, State.pushByte_head]
  congr 1
  · refine List.map_congr_left fun i hmem => ?_
    rw [hread, if_neg (unread_slot_ne_tail (List.mem_range.1 hmem))]
  · rw [List.map_singleton, hread, head_add_count, if_pos rfl]

/-- POP takes the oldest unread byte, the one at `head`, and leaves the others (R93). -/
theorem unread_eq_cons {s : State} (hi : s.RingInv) (ha : s.avail = true) (feed : Bool) :
    s.unread = s.headByte :: (s.popByte feed).unread := by
  unfold State.unread State.headByte
  rw [count_popByte hi ha feed, List.range_succ_eq_map, List.map_cons, List.map_map, State.popByte_ring,
    State.popByte_head]
  congr 1
  · simp
  · refine List.map_congr_left fun i _ => ?_
    have hslot : s.head + BitVec.ofNat 8 (i + 1) = s.head + 1 + BitVec.ofNat 8 i := by bv_omega
    rw [Function.comp_apply, hslot]

/-! ### One ring operation -/

/-- `RingOpMove s op acc out t`: the ring operation `op` leads from `s` to `t`, accepts the bytes `acc` and pops the bytes
`out` (R91, R92, R93, R98). -/
inductive RingOpMove (s : State) : RingOp → List Byte → List Byte → State → Prop where
  | drop (b : Byte) : s.fullP = true → RingOpMove s (.offer b) [] [] (s.dropByte b)
  | push (b : Byte) : s.fullP = false → RingOpMove s (.offer b) [b] [] (s.pushByte b)
  | pop (feed : Bool) : s.avail = true →
      RingOpMove s (.pop feed) [] [s.headByte] ((s.popByte feed).answer (.byte s.headByte))
  | wait (feed : Bool) : s.avail = false → RingOpMove s (.pop feed) [] [] s
  | sync (c : SyncCopies) : RingOpMove s (.sync c) [] [] (s.syncViews (copiesTail c) (copiesHead c))

/-- The operation of the table that a ring operation runs makes its move. -/
theorem RingOp.move_of_exec {op : RingOp} {s t : State} (h : exec (op.instr s) s = .next t) :
    RingOpMove s op (op.accepted s) (op.popped s) t := by
  cases op with
  | offer b =>
    cases hf : s.fullP with
    | true =>
      obtain rfl : s.dropByte b = t := by simpa [RingOp.instr, exec, execPushDrop, hf] using h
      simpa [RingOp.accepted, RingOp.popped, hf] using RingOpMove.drop b hf
    | false =>
      obtain rfl : s.pushByte b = t := by simpa [RingOp.instr, exec, execPush, hf] using h
      simpa [RingOp.accepted, RingOp.popped, hf] using RingOpMove.push b hf
  | pop feed =>
    cases ha : s.avail with
    | true =>
      obtain rfl : (s.popByte feed).answer (.byte s.headByte) = t := by simpa [RingOp.instr, exec, execPop, ha] using h
      simpa [RingOp.accepted, RingOp.popped, ha] using RingOpMove.pop feed ha
    | false =>
      obtain rfl : s = t := by simpa [RingOp.instr, exec, execPop, wait, ha] using h
      simpa [RingOp.accepted, RingOp.popped, ha] using RingOpMove.wait feed ha
  | sync c => cases h; exact .sync c

section
variable {s t : State} {op : RingOp} {acc out : List Byte}

theorem RingOpMove.ringMove (h : RingOpMove s op acc out t) : RingMove s t := by
  cases h with
  | drop b => exact .stay s.dec s.enc _
  | push b hf => exact .push b hf
  | pop feed ha => exact .pop _ _ ha
  | wait => exact .stay s.dec s.enc s.port
  | sync c => exact .sync _ _

/-- One ring operation is first in, first out. -/
theorem RingOpMove.fifo (h : RingOpMove s op acc out t) (hi : s.RingInv) : out ++ t.unread = s.unread ++ acc := by
  cases h with
  | push b hf => exact unread_pushByte hi hf b
  | pop feed ha => simp [unread_eq_cons hi ha feed]
  | drop | wait | sync => simp

/-- Only a POP moves `head` and pops a byte. -/
theorem RingOpMove.of_not_pop (h : RingOpMove s op acc out t) (hop : ∀ feed, op ≠ .pop feed) :
    out = [] ∧ t.head = s.head := by
  cases h with
  | drop | push => exact ⟨rfl, rfl⟩
  | pop feed | wait feed => exact absurd rfl (hop feed)
  | sync c => exact ⟨rfl, State.syncViews_head s _ _⟩

end

/-! ### Runs of ring operations -/

/-- A run keeps the ring's invariant, and is first in, first out. -/
theorem ringRun_fifo {ops : List RingOp} {s t : State} {acc out : List Byte} (h : ringRun ops s acc out t)
    (hi : s.RingInv) : t.RingInv ∧ out ++ t.unread = s.unread ++ acc := by
  induction ops generalizing s acc out with
  | nil =>
    obtain ⟨rfl, rfl, rfl⟩ := h
    simp [hi]
  | cons op ops ih =>
    obtain ⟨u, acc', out', hexec, rfl, rfl, hrun⟩ := h
    have hmove := RingOp.move_of_exec hexec
    obtain ⟨ht, htail⟩ := ih hrun (hmove.ringMove.ringInv hi)
    refine ⟨ht, ?_⟩
    calc op.popped s ++ out' ++ t.unread
        = op.popped s ++ u.unread ++ acc' := by rw [List.append_assoc, htail, List.append_assoc]
      _ = s.unread ++ (op.accepted s ++ acc') := by rw [hmove.fifo hi, List.append_assoc]

/-- Settles O9: the FIFO law of a run, whose last state meets the ring's invariant again. -/
theorem fifoLawOfTheRing : Obligations.FifoLawOfTheRing := by
  intro ops s t acc out hi hrun
  obtain ⟨⟨_, hcount, _⟩, hfifo⟩ := ringRun_fifo hrun hi
  exact ⟨hfifo, t.unread_length.trans_le hcount⟩

/-- A run without POP pops nothing, and `head` and the visible byte stay. -/
theorem ringRun_without_pop {ops : List RingOp} {s t : State} {acc out : List Byte} (h : ringRun ops s acc out t)
    (hi : s.RingInv) (ha : s.avail = true) (hops : ∀ op ∈ ops, ∀ feed, op ≠ .pop feed) :
    out = [] ∧ t.head = s.head ∧ t.avail = true := by
  induction ops generalizing s acc out with
  | nil =>
    obtain ⟨_, rfl, rfl⟩ := h
    exact ⟨rfl, rfl, ha⟩
  | cons op ops ih =>
    obtain ⟨u, acc', out', hexec, rfl, rfl, hrun⟩ := h
    obtain ⟨hop, hrest⟩ := List.forall_mem_cons.1 hops
    have hmove := RingOp.move_of_exec hexec
    obtain ⟨hpopped, hhead⟩ := hmove.of_not_pop hop
    obtain ⟨rfl, hhead', ha'⟩ :=
      ih hrun (hmove.ringMove.ringInv hi) (hmove.ringMove.avail hi hhead ha) hrest
    exact ⟨by rw [hpopped, List.append_nil], hhead'.trans hhead, ha'⟩

/-- By the FIFO law, a run without POP leaves the byte at `head`, since that is the oldest unread one. -/
theorem headByte_of_ringRun_without_pop {ops : List RingOp} {s t : State} {acc : List Byte}
    (h : ringRun ops s acc [] t) (hi : s.RingInv) (ha : s.avail = true) (hta : t.avail = true) :
    t.headByte = s.headByte := by
  obtain ⟨hti, hfifo⟩ := ringRun_fifo h hi
  rw [unread_eq_cons hi ha false, unread_eq_cons hti hta false, List.nil_append, List.cons_append] at hfifo
  exact (List.cons.inj hfifo).1

/-- Settles O11: PEEK changes nothing that the ring operations read, so its byte is still at `head` when the POP comes. -/
theorem peekedByteIsTheNextPopped : Obligations.PeekedByteIsTheNextPopped := by
  intro feed ops s p t acc out hi ha hpeek hops hrun
  obtain rfl : s.answer (.byte s.headByte) = p := by simpa [exec, execPeek, ha] using hpeek
  have hpi : (s.answer (.byte s.headByte)).RingInv := hi
  obtain ⟨rfl, hhead, hta⟩ := ringRun_without_pop hrun hpi ha hops
  have hbyte : t.headByte = s.headByte := (headByte_of_ringRun_without_pop hrun hpi ha hta :)
  refine ⟨(t.popByte feed).answer (.byte t.headByte), s.headByte, if_pos hta, rfl, ?_, ?_⟩
  · rw [State.answer_port, hbyte]
  · rw [State.answer_head, State.popByte_head, hhead, State.answer_head]

end Sys2Proof.Machine
end

section
/-! SUPPORT. Bytes and fields (R42, R69), and the checksum law (R62, R122). -/

namespace Sys2Proof

/-! ### Bytes and fields (R69) -/

theorem toNat_append_byte {n : Nat} (x : BitVec n) (b : Byte) : (x ++ b).toNat = 256 * x.toNat + b.toNat := by
  rw [BitVec.toNat_append, ← Nat.shiftLeft_add_eq_or_of_lt b.isLt, Nat.shiftLeft_eq]
  omega

theorem be16_toNat (h l : Byte) : (be16 h l).toNat = 256 * h.toNat + l.toNat := toNat_append_byte h l

theorem be64_toNat (b0 b1 b2 b3 b4 b5 b6 b7 : Byte) :
    (be64 b0 b1 b2 b3 b4 b5 b6 b7).toNat =
      256 * (256 * (256 * (256 * (256 * (256 * (256 * b0.toNat + b1.toNat) + b2.toNat) + b3.toNat) + b4.toNat) +
        b5.toNat) + b6.toNat) + b7.toNat := by
  simp only [be64, toNat_append_byte]

/-- A Length below 256 stands in its low byte alone. -/
theorem be16_toNat_lt_256 {h l : Byte} : (be16 h l).toNat < 256 ↔ h = 0#8 := by
  rw [be16_toNat, ← BitVec.toNat_inj, BitVec.toNat_ofNat]
  omega

theorem be16_toNat_eq_iff {h l : Byte} {n : Nat} (hn : n < 256) :
    (be16 h l).toNat = n ↔ h = 0#8 ∧ l = BitVec.ofNat 8 n := by
  rw [be16_toNat, ← BitVec.toNat_inj, ← BitVec.toNat_inj, BitVec.toNat_ofNat, BitVec.toNat_ofNat]
  omega

theorem byteOf16_toNat (v : Half) (i : Nat) : (byteOf16 v i).toNat = v.toNat / 2 ^ (8 - 8 * i) % 256 := by
  rw [byteOf16, BitVec.extractLsb'_toNat, Nat.shiftRight_eq_div_pow]

theorem byteOf64_toNat (v : Addr64) (i : Nat) : (byteOf64 v i).toNat = v.toNat / 2 ^ (56 - 8 * i) % 256 := by
  rw [byteOf64, BitVec.extractLsb'_toNat, Nat.shiftRight_eq_div_pow]

@[simp] theorem be16_byteOf16 (v : Half) : be16 (byteOf16 v 0) (byteOf16 v 1) = v := by
  apply BitVec.eq_of_toNat_eq
  simp only [be16_toNat, byteOf16_toNat]
  omega

@[simp] theorem be64_byteOf64 (v : Addr64) :
    be64 (byteOf64 v 0) (byteOf64 v 1) (byteOf64 v 2) (byteOf64 v 3) (byteOf64 v 4) (byteOf64 v 5) (byteOf64 v 6)
      (byteOf64 v 7) = v := by
  apply BitVec.eq_of_toNat_eq
  simp only [be64_toNat, byteOf64_toNat]
  omega

namespace Machine

theorem shiftIn16_toNat (r : Half) (b : Byte) : (shiftIn16 r b).toNat = (256 * r.toNat + b.toNat) % 2 ^ 16 := by
  simp only [shiftIn16, BitVec.toNat_add, BitVec.toNat_shiftLeft, BitVec.toNat_setWidth, Nat.shiftLeft_eq]
  omega

theorem shiftIn64_toNat (r : Addr64) (b : Byte) : (shiftIn64 r b).toNat = (256 * r.toNat + b.toNat) % 2 ^ 64 := by
  simp only [shiftIn64, BitVec.toNat_add, BitVec.toNat_shiftLeft, BitVec.toNat_setWidth, Nat.shiftLeft_eq]
  omega

/-- Two bytes shifted in push out all that the register held. -/
theorem shiftIn16_shiftIn16 (r : Half) (h l : Byte) : shiftIn16 (shiftIn16 r h) l = be16 h l := by
  apply BitVec.eq_of_toNat_eq
  rw [shiftIn16_toNat, shiftIn16_toNat, be16_toNat]
  omega

/-- Eight bytes shifted in push out all that the register held. -/
theorem foldl_shiftIn64 (r : Addr64) (b0 b1 b2 b3 b4 b5 b6 b7 : Byte) :
    [b0, b1, b2, b3, b4, b5, b6, b7].foldl shiftIn64 r = be64 b0 b1 b2 b3 b4 b5 b6 b7 := by
  apply BitVec.eq_of_toNat_eq
  simp only [List.foldl_cons, List.foldl_nil, shiftIn64_toNat, be64_toNat]
  omega

/-- Settles O30: the bytes shifted in make the field of the same bytes, and that field is the value they were split from. -/
theorem fieldsAreMostSignificantFirst : Obligations.FieldsAreMostSignificantFirst := by
  refine ⟨fun r v => ?_, fun r v => ?_, fun r h l => ?_⟩
  · exact (foldl_shiftIn64 r ..).trans (be64_byteOf64 v)
  · exact (shiftIn16_shiftIn16 r ..).trans (be16_byteOf16 v)
  · rw [shiftIn16_shiftIn16, be16_toNat]

end Machine

/-! ### The checksum law (R62) -/

theorem sumBytes_append (xs ys : List Byte) : sumBytes (xs ++ ys) = sumBytes xs + sumBytes ys := by
  induction xs with
  | nil => simp [sumBytes]
  | cons x xs ih => simp only [List.cons_append, sumBytes, ih, add_assoc]

theorem sumBytes_append_checksumOf (body : List Byte) : sumBytes (body ++ [checksumOf body]) = Config.chkOk := by
  rw [sumBytes_append]
  simp [sumBytes, checksumOf]

/-- Each byte can be told from the sum and the other bytes. -/
theorem sumBytes_replace_inj {xs ys : List Byte} {b c : Byte} :
    sumBytes (xs ++ b :: ys) = sumBytes (xs ++ c :: ys) ↔ b = c := by
  simp [sumBytes_append, sumBytes]

/-- Settles O50: with the sum kept, the byte would have to be the one that was there. -/
theorem checksumCatchesAChangedByte : Obligations.ChecksumCatchesAChangedByte :=
  ⟨sumBytes_append_checksumOf, fun _ _ _ _ hne hb hc => hne (sumBytes_replace_inj.1 (hb.trans hc.symm))⟩

end Sys2Proof
end

section
/-! SUPPORT. Header words and the rows of the table they select (R71, R72). -/

namespace Sys2Proof

/-! ### Header words (R71) -/

theorem headerWord_toNat (delim lenHi lenLo ty : Byte) :
    (headerWord delim lenHi lenLo ty).toNat =
      256 * (256 * (256 * delim.toNat + lenHi.toNat) + lenLo.toNat) + ty.toNat := by
  simp only [headerWord, toNat_append_byte]

@[simp] theorem headerLen_headerWord (delim lenHi lenLo ty : Byte) :
    headerLen (headerWord delim lenHi lenLo ty) = be16 lenHi lenLo := by
  apply BitVec.eq_of_toNat_eq
  rw [headerLen, BitVec.extractLsb'_toNat, headerWord_toNat, be16_toNat, Nat.shiftRight_eq_div_pow]
  omega

theorem headerWord_inj {d h l t d' h' l' t' : Byte} :
    headerWord d h l t = headerWord d' h' l' t' ↔ d = d' ∧ h = h' ∧ l = l' ∧ t = t' := by
  simp only [BitVec.toNat_inj.symm, headerWord_toNat]
  omega

/-- A mask acts on each byte of a header word. -/
theorem headerWord_and (d h l t d' h' l' t' : Byte) :
    headerWord d h l t &&& headerWord d' h' l' t' = headerWord (d &&& d') (h &&& h') (l &&& l') (t &&& t') := by
  unfold headerWord
  exact BitVec.and_append.trans (by rw [BitVec.and_append, BitVec.and_append])

theorem headerWord_bytes (w : BitVec 32) :
    headerWord (w.extractLsb' 24 8) (w.extractLsb' 16 8) (w.extractLsb' 8 8) (w.extractLsb' 0 8) = w := by
  apply BitVec.eq_of_toNat_eq
  simp only [headerWord_toNat, BitVec.extractLsb'_toNat, Nat.shiftRight_eq_div_pow]
  omega

/-- A header fits a row byte by byte. -/
theorem Row.fits_headerWord {cfg : Config} {r : Row} {d h l t : Byte} :
    r.fits cfg (headerWord d h l t) = true ↔
      (d &&& r.mask.extractLsb' 24 8 = r.value.extractLsb' 24 8 ∧
        h &&& r.mask.extractLsb' 16 8 = r.value.extractLsb' 16 8 ∧
        l &&& r.mask.extractLsb' 8 8 = r.value.extractLsb' 8 8 ∧
        t &&& r.mask.extractLsb' 0 8 = r.value.extractLsb' 0 8) ∧
      r.kind.lenOk cfg (be16 h l).toNat = true := by
  rw [← headerWord_inj, ← headerWord_and, headerWord_bytes, headerWord_bytes, Row.fits, headerLen_headerWord,
    Bool.and_eq_true, beq_iff_eq]

theorem byte_and_ff (b : Byte) : b &&& 0xFF#8 = b := BitVec.and_allOnes

/-! ### The rows (R71, R72) -/

/-- Does a row take the frames with type `ty` and Length `len` (R71, R72)? `DEC_SKIP` takes every one. -/
def RowKind.takes (cfg : Config) (ty : Byte) (len : Nat) : RowKind → Bool
  | .encTx => ty == typeTx && RowKind.encTx.lenOk cfg len
  | .encAt => ty == typeAt && RowKind.encAt.lenOk cfg len
  | .decRx => ty == typeRx && RowKind.decRx.lenOk cfg len
  | .decAtresp => ty == typeAtresp && RowKind.decAtresp.lenOk cfg len
  | .decModem => ty == typeModem && RowKind.decModem.lenOk cfg len
  | .decTxstat => ty == typeTxstat && RowKind.decTxstat.lenOk cfg len
  | .decSkip => true

/-- The mask and value of a row ask for its frame type; what they ask of the Length bytes follows from the row's condition
on the Length. -/
theorem fits_iff_takes {cfg : Config} {hi lo ty : Byte} :
    ∀ r ∈ rows, r.fits cfg (headerWord Config.start hi lo ty) = true ↔
      r.kind.takes cfg ty (be16 hi lo).toNat = true := by
  simp only [rows, List.forall_mem_cons, Row.fits_headerWord, Config.start, RowKind.takes, Bool.and_eq_true, beq_iff_eq]
  refine ⟨?encTx, ?encAt, ?decRx, ?decAtresp, ?decModem, ?decTxstat, ?decSkip, fun _ h => nomatch h⟩
  case encTx =>
    have hhi : RowKind.encTx.lenOk cfg (be16 hi lo).toNat = true → hi = 0#8 := by
      rw [RowKind.lenOk, decide_eq_true_iff, ← be16_toNat_lt_256 (l := lo)]
      omega
    simpa [byte_and_ff, typeTx] using fun hlen _ => hhi hlen
  case encAt => simp +contextual [byte_and_ff, RowKind.lenOk, be16_toNat_eq_iff, Config.atcmdLen, typeAt]
  case decRx => simp [byte_and_ff, typeRx]
  case decAtresp => simp [byte_and_ff, typeAtresp]
  case decModem => simp +contextual [byte_and_ff, RowKind.lenOk, be16_toNat_eq_iff, Config.modemLen, typeModem]
  case decTxstat => simp +contextual [byte_and_ff, RowKind.lenOk, be16_toNat_eq_iff, Config.txstatLen, typeTxstat]
  case decSkip => simp [RowKind.lenOk]

theorem rowOf_headerWord (cfg : Config) (dir : Direction) (hi lo ty : Byte) :
    rowOf cfg dir (headerWord Config.start hi lo ty) =
      (rows.find? fun r => r.dir == dir && r.kind.takes cfg ty (be16 hi lo).toNat).map Row.kind := by
  unfold rowOf
  congr 1
  refine List.find?_congr fun r hr => ?_
  rw [Bool.eq_iff_iff.2 (fits_iff_takes r hr)]

theorem rowOf_sent (cfg : Config) (hi lo ty : Byte) :
    rowOf cfg .sent (headerWord Config.start hi lo ty) =
      if RowKind.encTx.takes cfg ty (be16 hi lo).toNat then some .encTx
      else if RowKind.encAt.takes cfg ty (be16 hi lo).toNat then some .encAt
      else none := by
  split_ifs <;> simp [rowOf_headerWord, rows, *]

theorem rowOf_received (cfg : Config) (hi lo ty : Byte) :
    rowOf cfg .received (headerWord Config.start hi lo ty) =
      some (if RowKind.decRx.takes cfg ty (be16 hi lo).toNat then .decRx
        else if RowKind.decAtresp.takes cfg ty (be16 hi lo).toNat then .decAtresp
        else if RowKind.decModem.takes cfg ty (be16 hi lo).toNat then .decModem
        else if RowKind.decTxstat.takes cfg ty (be16 hi lo).toNat then .decTxstat
        else .decSkip) := by
  have hskip : RowKind.decSkip.takes cfg ty (be16 hi lo).toNat = true := rfl
  split_ifs <;> simp [rowOf_headerWord, rows, *]

/-- The direction in which a row's frames travel (R70). -/
def RowKind.dir : RowKind → Direction
  | .encTx | .encAt => .sent
  | .decRx | .decAtresp | .decModem | .decTxstat | .decSkip => .received

/-- No two rows before the last take the same frame type, so one that takes the header is the row it selects. -/
theorem rowOf_of_takes {cfg : Config} {hi lo ty : Byte} {kind : RowKind} (hk : kind ≠ .decSkip)
    (h : kind.takes cfg ty (be16 hi lo).toNat = true) :
    rowOf cfg kind.dir (headerWord Config.start hi lo ty) = some kind := by
  cases kind with
  | encTx => rw [RowKind.dir, rowOf_sent, if_pos h]
  | encAt =>
    rw [RowKind.dir, rowOf_sent, if_neg, if_pos h]
    simp_all [RowKind.takes, typeTx, typeAt]
  | decRx => rw [RowKind.dir, rowOf_received, if_pos h]
  | decAtresp | decModem | decTxstat =>
    rw [RowKind.takes, Bool.and_eq_true, beq_iff_eq] at h
    obtain ⟨rfl, hlen⟩ := h
    simp [RowKind.dir, rowOf_received, RowKind.takes, hlen, typeRx, typeAtresp, typeModem, typeTxstat]
  | decSkip => exact absurd rfl hk

theorem rowOf_of_not_decodable {cfg : Config} {hi lo ty : Byte} (h : decodable cfg ty (be16 hi lo).toNat = false) :
    rowOf cfg .received (headerWord Config.start hi lo ty) = some .decSkip := by
  simp only [decodable, Bool.or_eq_false_iff] at h
  obtain ⟨⟨⟨hrx, hatresp⟩, hmodem⟩, htxstat⟩ := h
  simp only [rowOf_received, RowKind.takes, RowKind.lenOk, hrx, hatresp, hmodem, htxstat, Bool.false_eq_true, if_false]

end Sys2Proof
end

section
/-! SUPPORT. D_TYPE's routing and the header rows choose the same operation (R71, R136). -/

namespace Sys2Proof.Machine

/-- The row of a decode path. -/
def DPath.rowKind : DPath → RowKind
  | .rx => .decRx
  | .atresp => .decAtresp
  | .modem => .decModem
  | .txstat => .decTxstat

theorem DPath.rowKind_ne_decSkip (p : DPath) : p.rowKind ≠ .decSkip := by cases p <;> nofun

theorem route_eq_path_takes {cfg : Config} {ty : Byte} {len : Half} {p : DPath} {q : BitVec 16}
    (h : route cfg ty len = .path p q) : p.rowKind.takes cfg ty len.toNat = true := by
  unfold route at h
  split_ifs at h with hty hty hty hty
  case pos | pos =>
    obtain ⟨rfl, hlegal, hmax, _⟩ := routeSized_eq_path h
    simpa [DPath.rowKind, RowKind.takes, RowKind.lenOk, rxLegal, atrespLegal, hty, hlegal] using hmax
  case pos | pos =>
    obtain ⟨rfl, hlen, _⟩ := routeFixed_eq_path h
    simp [DPath.rowKind, RowKind.takes, RowKind.lenOk, hty, hlen]

theorem routeSized_eq_fail {cfg : Config} {p : DPath} {overhead : Nat} {len : Half} {k : Failure}
    (h : routeSized cfg p overhead len = .fail k) : overhead ≤ len.toNat → cfg.rxpMax + overhead < len.toNat := by
  unfold routeSized at h
  split_ifs at h <;> omega

theorem routeFixed_eq_fail {p : DPath} {want : Nat} {len : Half} {k : Failure} (h : routeFixed p want len = .fail k) :
    len.toNat ≠ want := by
  unfold routeFixed at h
  split_ifs at h with hlen
  exact hlen

/-- Where D_TYPE reports a failure, none of the four decoders takes the frame (R72, R136). -/
theorem decodable_of_route_eq_fail {cfg : Config} {ty : Byte} {len : Half} {k : Failure}
    (h : route cfg ty len = .fail k) : decodable cfg ty len.toNat = false := by
  unfold route at h
  split_ifs at h with hrx hatresp hmodem htxstat
  · have hlegal := routeSized_eq_fail h
    simpa [decodable, rxLegal, hrx, typeRx, typeAtresp, typeModem, typeTxstat] using hlegal
  · have hlegal := routeSized_eq_fail h
    simpa [decodable, atrespLegal, hatresp, typeRx, typeAtresp, typeModem, typeTxstat] using hlegal
  · have hlen := routeFixed_eq_fail h
    simp [decodable, hmodem, hlen, typeRx, typeAtresp, typeModem, typeTxstat]
  · have hlen := routeFixed_eq_fail h
    simp [decodable, htxstat, hlen, typeRx, typeAtresp, typeModem, typeTxstat]
  · simp [decodable, hrx, hatresp, hmodem, htxstat]

/-- Settles O26: a path is chosen where its row takes the header, and a failure where no decoder does. -/
theorem headerRowsAgreeWithRouting : Obligations.HeaderRowsAgreeWithRouting := by
  intro cfg hi lo ty
  split
  case h_5 k hroute => exact rowOf_of_not_decodable (decodable_of_route_eq_fail hroute)
  all_goals
    next hroute => exact rowOf_of_takes (DPath.rowKind_ne_decSkip _) (route_eq_path_takes hroute)

end Sys2Proof.Machine
end

section
/-! SUPPORT. What `decode` answers (R60, R61, R74), and that it undoes `encode` frame format by frame format (R63 to R68). -/

namespace Sys2Proof

/-! ### What `decode` answers -/

/-- What it takes for a header and the bytes behind it to decode. -/
theorem decode_eq_ok_iff {cfg : Config} {dir : Direction} {hi lo ty : Byte} {bs rest : List Byte} {i : Instr} :
    decode cfg dir (Config.start :: hi :: lo :: ty :: bs) = .ok (i, rest) ↔
      (be16 hi lo).toNat ≤ bs.length ∧ rest = bs.drop (be16 hi lo).toNat ∧
      ∃ kind, rowOf cfg dir (headerWord Config.start hi lo ty) = some kind ∧
        i = decodeRow (be16 hi lo) ty (bs.take (be16 hi lo).toNat) kind := by
  rw [decode, if_pos rfl]
  split_ifs with hlen
  · simp [Nat.not_le.2 hlen]
  · cases rowOf cfg dir (headerWord Config.start hi lo ty) with
    | none => simp
    | some kind => simp [Nat.not_lt.1 hlen, and_comm, eq_comm]

/-- Settles O55: what lies behind the frame is what is left after `L` bytes behind the header's four. -/
theorem frameExtentIsTheLength : Obligations.FrameExtentIsTheLength := by
  intro cfg dir hi lo ty bs rest i h
  obtain ⟨hlen, rfl, -⟩ := decode_eq_ok_iff.1 h
  refine ⟨?_, 0x7E :: hi :: lo :: ty :: bs.take (be16 hi lo).toNat, by simp⟩
  simp only [List.length_cons, List.length_drop, ← be16_toNat]
  omega

/-- A header, the `L` bytes it announces and whatever comes next. -/
theorem decode_frame {cfg : Config} {dir : Direction} {len : Half} {ty : Byte} {os : List Byte} {kind : RowKind}
    (hos : os.length = len.toNat)
    (hrow : rowOf cfg dir (headerWord Config.start (byteOf16 len 0) (byteOf16 len 1) ty) = some kind)
    (more : List Byte) :
    decode cfg dir (Config.start :: (bytes16 len ++ ty :: os) ++ more) = .ok (decodeRow len ty os kind, more) := by
  refine decode_eq_ok_iff.2 ?_
  simp [be16_byteOf16, ← hos, hrow]

theorem decode_wireFrame {cfg : Config} {len : Half} {ty ck : Byte} {os : List Byte} {kind : RowKind}
    (hlen : len.toNat = os.length + 1) (hk : kind ≠ .decSkip) (htakes : kind.takes cfg ty len.toNat = true)
    (more : List Byte) :
    decode cfg kind.dir (wireFrame (ty :: os) ck ++ more) = .ok (decodeRow len ty (os ++ [ck]) kind, more) := by
  have hwire : wireFrame (ty :: os) ck = Config.start :: (bytes16 len ++ ty :: (os ++ [ck])) := by
    rw [wireFrame, List.length_cons, ← hlen, BitVec.ofNat_toNat, BitVec.setWidth_eq, List.append_assoc,
      List.cons_append]
  rw [hwire]
  exact decode_frame (by simp [hlen]) (rowOf_of_takes hk (by rwa [be16_byteOf16])) more

/-! ### `decode` undoes `encode` -/

@[simp] theorem operandByte_cons_zero (b : Byte) (os : List Byte) : operandByte (b :: os) 0 = b := rfl

@[simp] theorem operandByte_cons_succ (b : Byte) (os : List Byte) (i : Nat) :
    operandByte (b :: os) (i + 1) = operandByte os i := rfl

@[simp] theorem operandByte_append_length (os : List Byte) (ck : Byte) : operandByte (os ++ [ck]) os.length = ck := by
  simp [operandByte]

@[simp] theorem length_bytes64 (v : Addr64) : (bytes64 v).length = 8 := rfl

@[simp] theorem length_bytes16 (v : Half) : (bytes16 v).length = 2 := rfl

theorem decode_encTx {cfg : Config} {id : Byte} {a64 : Addr64} {a16 : Half} {rad opt : Byte} {payload : List Byte}
    (h : WellFormed cfg (.encTx id a64 a16 rad opt payload) = true) (more : List Byte) :
    decode cfg .sent (encTxFrame id a64 a16 rad opt payload ++ more) =
      .ok (.encTx id a64 a16 rad opt payload, more) := by
  have hmax : payload.length ≤ 241 := of_decide_eq_true h
  have hlen : payload.length + 14 < 2 ^ 16 := by omega
  refine (decode_wireFrame (kind := .encTx) (len := .ofNatLT _ hlen) ?_ nofun ?_ more).trans ?_
  · simp +arith
  · simp [RowKind.takes, RowKind.lenOk, Config.txOverhead, hmax]
  · simp [decodeRow, bytes64, bytes16, Config.txOverhead]

theorem decode_decRx {cfg : Config} {src : Addr64} {net : Half} {opt : Byte} {data : List Byte} {ck : Byte}
    (h : WellFormed cfg (.decRx src net opt data ck) = true) (more : List Byte) :
    decode cfg .received (wireFrame (bodyRx src net opt data) ck ++ more) = .ok (.decRx src net opt data ck, more) := by
  obtain ⟨hlen, hmax⟩ := of_decide_eq_true h
  refine (decode_wireFrame (kind := .decRx) (len := .ofNatLT _ hlen) ?_ nofun ?_ more).trans ?_
  · simp +arith [Config.rxOverhead]
  · simp [RowKind.takes, RowKind.lenOk, rxLegal, hmax]
  · simp [decodeRow, bytes64, bytes16, Config.rxOverhead]

theorem decode_decAtresp {cfg : Config} {id c1 c2 status : Byte} {data : List Byte} {ck : Byte}
    (h : WellFormed cfg (.decAtresp id c1 c2 status data ck) = true) (more : List Byte) :
    decode cfg .received (wireFrame (bodyAtresp id c1 c2 status data) ck ++ more) =
      .ok (.decAtresp id c1 c2 status data ck, more) := by
  obtain ⟨hlen, hmax⟩ := of_decide_eq_true h
  refine (decode_wireFrame (kind := .decAtresp) (len := .ofNatLT _ hlen) ?_ nofun ?_ more).trans ?_
  · simp [Config.atrespOverhead]
  · simp [RowKind.takes, RowKind.lenOk, atrespLegal, hmax]
  · simp [decodeRow, Config.atrespOverhead]

theorem decode_decTxstat (cfg : Config) (id : Byte) (net : Half) (retry delivery discovery ck : Byte) (more : List Byte) :
    decode cfg .received (wireFrame (bodyTxstat id net retry delivery discovery) ck ++ more) =
      .ok (.decTxstat id net retry delivery discovery ck, more) := by
  refine (decode_wireFrame (kind := .decTxstat) (len := 7) rfl nofun rfl more).trans ?_
  simp [decodeRow, bytes16]

theorem decode_decSkip {cfg : Config} {len : Half} {ty : Byte} {rest : List Byte}
    (h : WellFormed cfg (.decSkip len ty rest) = true) (more : List Byte) :
    decode cfg .received (Config.start :: (bytes16 len ++ ty :: rest) ++ more) = .ok (.decSkip len ty rest, more) := by
  rw [WellFormed, Bool.and_eq_true, beq_iff_eq, Bool.not_eq_true'] at h
  obtain ⟨hlen, hty⟩ := h
  exact decode_frame hlen (rowOf_of_not_decodable (by rwa [be16_byteOf16])) more

/-- Settles O53: one lemma above for each frame format; the PORT and PHASE rows have no frame. -/
theorem decodeOfEncodeIsTheOperation : Obligations.DecodeOfEncodeIsTheOperation := by
  intro cfg i dir bs more hwf hdir henc
  cases i <;> cases hdir <;> cases henc
  case encTx => exact decode_encTx hwf more
  case encAt => exact decode_wireFrame (kind := .encAt) (len := 4) rfl nofun rfl more
  case decRx => exact decode_decRx hwf more
  case decAtresp => exact decode_decAtresp hwf more
  case decModem => exact decode_wireFrame (kind := .decModem) (len := 2) rfl nofun rfl more
  case decTxstat => exact decode_decTxstat cfg _ _ _ _ _ _ more
  case decSkip => exact decode_decSkip hwf more

/-- Settles O56, by evaluation: the words are fixed. -/
theorem tableWordsDecode : Obligations.TableWordsDecode :=
  ⟨rfl, rfl, rfl, rfl, rfl, rfl, rfl⟩

end Sys2Proof
end

section
/-! SUPPORT. What a listed turn does (R75, R130, R174, R201): the operation it selects, or the port it drives. -/

namespace Sys2Proof.Machine

/-- A listed turn is a turn presented to the state with the turns behind it. -/
theorem eq_present_of_sched {s : State} {x : Turn} {rest : List Turn} (h : s.sched = x :: rest) :
    s = ({ s with sched := rest } : State).present x := by
  rw [State.present, ← h]

theorem step_present_of_fetch {s t : State} {x : Turn} {i : Instr} (h : fetchInstr x s = some (i, t)) :
    step (s.present x) = exec i t := by
  rw [step_present, h]

/-- The receive interrupt, as the rows it selects. -/
theorem rxInterrupt_eq_exec (b : Byte) (s : State) :
    rxInterrupt b s =
      if s.port.rst = true then .next s
      else if s.tail + 1 = s.headView then exec (.pushDrop b) s else exec (.push b) s := by
  simp only [rxInterrupt, State.fullP_iff]
  rfl

theorem State.offer_eq (s : State) (c : Command) :
    s.offer c = if s.port.rst = true then s else { s with port := { s.port with cmds := s.port.cmds ++ [c] } } := rfl

/-- Settles O58: the listed turn is presented, and each turn's operation is what `fetchInstr` selects for it. -/
theorem stepRunsTheSelectedOperation : Obligations.StepRunsTheSelectedOperation := by
  rintro s u rest rfl
  refine ⟨fun b h => ?rx, fun c h => ?command, fun h => ?rstHigh, fun h => ?rstLow, fun h => ?decoder, fun h => ?encoder,
    fun h => ?tailOnly, fun h => ?headOnly, fun h => ?both, fun h => ?reset, fun h => ?sample, fun feed h => ?pop,
    fun h => ?peek, fun level h => ?txReady, fun level h => ?evReady⟩ <;>
    refine (congrArg step (eq_present_of_sched h)).trans ?_
  case rx => exact (step_present_rx _ b).trans (rxInterrupt_eq_exec b _)
  case command => exact (step_present_command _ c).trans (congrArg _ (State.offer_eq _ c))
  case decoder =>
    refine (step_present_of_fetch rfl).trans ?_
    unfold decoderInstr
    dsimp only
    cases s.dec.phase with
    | dSync => exact apply_ite (exec · _) _ _ _
    | _ => rfl
  case encoder =>
    refine (step_present_of_fetch rfl).trans ?_
    unfold encoderInstr
    dsimp only
    cases s.enc.phase <;> rfl
  case rstLow | txReady | evReady => rfl
  case rstHigh | tailOnly | headOnly | both | reset | sample | pop | peek => exact step_present_of_fetch rfl

end Sys2Proof.Machine
end

section
/-! SUPPORT. The ring operations as equations (R91 to R99): what each row of the ring answers where it is enabled, and that
it waits where it is not. -/

namespace Sys2Proof.Machine

/-! ### The PRODUCER's rows -/

theorem exec_push_of_not_full {s : State} (hf : s.fullP = false) (b : Byte) : exec (.push b) s = .next (s.pushByte b) :=
  if_neg (by simp [hf])

theorem exec_pushDrop_of_full {s : State} (hf : s.fullP = true) (b : Byte) :
    exec (.pushDrop b) s = .next (s.dropByte b) :=
  if_pos hf

/-- Settles O1: the store is in canonical form, so what is read after the write is the written byte at its address. -/
theorem pushStoresTheByteAtTail : Obligations.PushStoresTheByteAtTail := fun b s hw hf =>
  ⟨s.pushByte b, exec_push_of_not_full hf b, Memory.read_write hw s.tail.toNat b, rfl⟩

/-- Settles O2: on a full ring PUSH_DROP is enabled. -/
theorem pushDropDiscardsTheByte : Obligations.PushDropDiscardsTheByte := fun b _ hf => exec_pushDrop_of_full hf b

/-! ### The DECODER's rows -/

theorem avail_eq_false_iff (s : State) : s.avail = false ↔ s.head = s.tailView := by
  rw [← Bool.not_eq_true, State.avail_iff, not_not]

theorem exec_pop_of_avail {s : State} (ha : s.avail = true) (feed : Bool) :
    exec (.pop feed) s = .next ((s.popByte feed).answer (.byte s.headByte)) :=
  if_pos ha

theorem exec_peek_of_avail {s : State} (ha : s.avail = true) : exec .peek s = .next (s.answer (.byte s.headByte)) :=
  if_pos ha

theorem exec_pop_of_not_avail {s : State} (ha : s.avail = false) (feed : Bool) : exec (.pop feed) s = .next s :=
  if_neg (by simp [ha])

theorem exec_peek_of_not_avail {s : State} (ha : s.avail = false) : exec .peek s = .next s :=
  if_neg (by simp [ha])

/-- Every PHASE row of the DECODER asks for a visible byte (R130, R133). -/
theorem exec_decoderRow_of_not_avail {i : Instr} {s : State} (hi : decoderRow i = true) (ha : s.avail = false) :
    exec i s = .next s := by
  cases i <;> cases hi <;> exact if_neg (by simp [ha])

/-- Settles O3: a byte is visible exactly when `head` differs from the view of `tail` (R90). -/
theorem popTakesTheOldestByte : Obligations.PopTakesTheOldestByte := fun feed s =>
  ⟨fun hne => exec_pop_of_avail ((State.avail_iff s).2 hne) feed,
    fun heq => exec_pop_of_not_avail ((avail_eq_false_iff s).2 heq) feed⟩

/-- Settles O4, by the same case distinction as for POP. -/
theorem peekLeavesTheByte : Obligations.PeekLeavesTheByte := fun s =>
  ⟨fun hne => exec_peek_of_avail ((State.avail_iff s).2 hne),
    fun heq => exec_peek_of_not_avail ((avail_eq_false_iff s).2 heq)⟩

/-- Settles O5: AVAILABLE answers `avail`, which is this comparison (R90). -/
theorem availableAnswersTheView : Obligations.AvailableAnswersTheView := fun _ => rfl

/-- Settles O34: the bare ring operations wait, and so does every PHASE row. -/
theorem decoderWaitsWithoutAByte : Obligations.DecoderWaitsWithoutAByte := by
  rintro i s ha (⟨feed, rfl⟩ | rfl | hphase)
  · exact exec_pop_of_not_avail ha feed
  · exact exec_peek_of_not_avail ha
  · refine exec_decoderRow_of_not_avail ?_ ha
    rcases hphase with rfl | rfl | rfl | rfl | rfl | rfl | rfl | rfl <;> rfl

/-! ### SYNC -/

theorem exec_sync (a b : Bool) (s : State) : exec (.sync a b) s = .next (s.syncViews a b) := rfl

theorem State.syncViews_synchronised {s : State} (hc : s.cfg.cdc = .synchronised) (a b : Bool) :
    s.syncViews a b = { s with tailC := if a then s.tail else s.tailC, headP := if b then s.head else s.headP } := by
  unfold State.syncViews
  rw [hc]

/-- With `CDC_MODE = atomic` a SYNC step has nothing to refresh (R99). -/
theorem State.syncViews_atomic {s : State} (hc : s.cfg.cdc = .atomic) (a b : Bool) : s.syncViews a b = s := by
  unfold State.syncViews
  rw [hc]

/-- Settles O6: the refreshed views are the synchronised case of a SYNC step. -/
theorem syncRefreshesTheViews : Obligations.SyncRefreshesTheViews := fun a b _ _ hc =>
  congrArg Host.Outcome.next (State.syncViews_synchronised hc a b)

/-- Settles O7: what is said of the atomic mode, once for each view and once for SYNC. -/
theorem atomicViewsAreTheIndices : Obligations.AtomicViewsAreTheIndices := fun a b s hc =>
  ⟨State.tailView_atomic s hc, State.headView_atomic s hc, congrArg Host.Outcome.next (State.syncViews_atomic hc a b)⟩

/-! ### A visible byte stays visible -/

/-- A row of the ENCODER leaves the ring, and the indices and views with it (R22). -/
theorem exec_encoderRow_ringMove {i : Instr} {s t : State} (hi : encoderRow i = true) (h : exec i s = .next t) :
    RingMove s t ∧ t.head = s.head := by
  rcases exec_encoderRow_cases hi h with rfl | hstep
  · exact ⟨.stay t.dec t.enc t.port, rfl⟩
  · obtain ⟨e, cs, r, bs, rfl⟩ := encoderStep_frame hstep
    exact ⟨.stay s.dec e _, rfl⟩

/-- Settles O10: each of these rows is a move of the ring that leaves `head`, and such a move keeps a visible byte visible. -/
theorem availStaysTrueUntilPopped : Obligations.AvailStaysTrueUntilPopped := by
  intro i s t hinv ha hi h
  obtain ⟨hmove, hhead⟩ : RingMove s t ∧ t.head = s.head := by
    rcases hi with ⟨b, rfl | rfl⟩ | ⟨x, y, rfl⟩ | rfl | rfl | hphase
    · rcases execPush_cases h with rfl | ⟨hf, rfl⟩
      · exact ⟨.stay t.dec t.enc t.port, rfl⟩
      · exact ⟨.push b hf, rfl⟩
    · rcases execPushDrop_cases h with rfl | ⟨_, rfl⟩
      · exact ⟨.stay t.dec t.enc t.port, rfl⟩
      · exact ⟨.stay s.dec s.enc _, rfl⟩
    · rw [exec_sync] at h
      cases h
      exact ⟨.sync x y, State.syncViews_head s x y⟩
    · rcases execPeek_cases h with rfl | rfl
      · exact ⟨.stay t.dec t.enc t.port, rfl⟩
      · exact ⟨.stay s.dec s.enc _, rfl⟩
    · cases h
      exact ⟨.stay s.dec s.enc _, rfl⟩
    · refine exec_encoderRow_ringMove ?_ h
      rcases hphase with rfl | rfl | rfl | rfl | rfl <;> rfl
  exact hmove.avail hinv hhead ha

end Sys2Proof.Machine
end

section
/-! SUPPORT. The two modes of the crossing (R99). An operation reads the views only through `avail` and `full_p`, and only
SYNC and RESET write them; so an atomic machine and a synchronised one whose views are current do the same until the next
SYNC step. -/

namespace Sys2Proof.Machine

/-- The synchronised machine with the registers of `s` and the views `tc` and `hp`. -/
def State.withViews (s : State) (tc hp : BitVec 8) : State :=
  { s with cfg := { s.cfg with cdc := .synchronised }, tailC := tc, headP := hp }

theorem State.asSynchronised_eq (s : State) : s.asSynchronised = s.withViews s.tail s.head := rfl

/-- A SYNC step makes both views current, whatever they were. -/
theorem execSync_withViews (s : State) (tc hp : BitVec 8) :
    execSync true true (s.withViews tc hp) = .next s.asSynchronised := rfl

/-- What an atomic machine's DECODER sees, a synchronised one with a current `tail_c` sees. -/
theorem State.withViews_avail {s : State} {tc : BitVec 8} (hc : s.cfg.cdc = .atomic) (htail : s.tail = tc)
    (hp : BitVec 8) : (s.withViews tc hp).avail = s.avail := by
  have hview : s.tailView = tc := (State.tailView_atomic s hc).trans htail
  unfold State.avail
  rw [hview]
  rfl

/-- What an atomic machine's PRODUCER sees, a synchronised one with a current `head_p` sees. -/
theorem State.withViews_fullP {s : State} {hp : BitVec 8} (hc : s.cfg.cdc = .atomic) (hhead : s.head = hp)
    (tc : BitVec 8) : (s.withViews tc hp).fullP = s.fullP := by
  have hview : s.headView = hp := (State.headView_atomic s hc).trans hhead
  unfold State.fullP
  rw [hview]
  rfl

/-! ### Operations and given views -/

/-- The receive interrupt reads the views only through `full_p` and does not write them. -/
theorem rxInterrupt_withViews {s : State} {tc hp : BitVec 8} (hf : (s.withViews tc hp).fullP = s.fullP) (b : Byte) :
    rxInterrupt b (s.withViews tc hp) = andThen (rxInterrupt b s) fun t => .next (t.withViews tc hp) := by
  simp only [rxInterrupt, execPush, execPushDrop, andThen_ite, hf]
  rfl

theorem State.finishFrame_withViews (s : State) (tc hp : BitVec 8) :
    (s.withViews tc hp).finishFrame = s.finishFrame.withViews tc hp := by
  have hsum : (s.withViews tc hp).rxSumOk = s.rxSumOk := rfl
  unfold State.finishFrame
  rw [hsum]
  cases s.rxSumOk <;> rfl

/-- A row of the DECODER reads the views only through `avail` and does not write them. -/
theorem exec_decoderRow_withViews {i : Instr} {s : State} {tc hp : BitVec 8} (hi : decoderRow i = true)
    (ha : (s.withViews tc hp).avail = s.avail) :
    exec i (s.withViews tc hp) = andThen (exec i s) fun t => .next (t.withViews tc hp) := by
  cases i with
  | dSyncDiscard | dSyncMarker | dLenHi | dLenLo | dSkip =>
    simp only [exec, execDSyncDiscard, execDSyncMarker, execDLenHi, execDLenLo, execDSkip, andThen_ite, ha]; rfl
  | dType =>
    have hroute : route (s.withViews tc hp).cfg (s.withViews tc hp).headByte (s.withViews tc hp).dec.len =
        route s.cfg s.headByte s.dec.len := rfl
    simp only [exec, execDType, andThen_ite, ha, hroute]
    cases route s.cfg s.headByte s.dec.len with
    | path p q => rfl
    | fail k => simp only [andThen_ite]; cases k <;> rfl
  | dBody =>
    have hstore : store (s.withViews tc hp).cfg ((s.withViews tc hp).popByte true).dec (s.withViews tc hp).dec.pos.toNat
        (s.withViews tc hp).headByte = store s.cfg (s.popByte true).dec s.dec.pos.toNat s.headByte := rfl
    simp only [exec, execDBody, andThen_ite, ha, hstore]
    cases store s.cfg (s.popByte true).dec s.dec.pos.toNat s.headByte <;> rfl
  | dCksum =>
    have hfinish : ((s.withViews tc hp).popByte true).finishFrame = (s.popByte true).finishFrame.withViews tc hp :=
      State.finishFrame_withViews (s.popByte true) tc hp
    simp only [exec, execDCksum, andThen_ite, ha, hfinish]; rfl
  | _ => cases hi

/-- A row of the ENCODER neither reads nor writes the views (R182). -/
theorem exec_encoderRow_withViews {i : Instr} (hi : encoderRow i = true) (s : State) (tc hp : BitVec 8) :
    exec i (s.withViews tc hp) = andThen (exec i s) fun t => .next (t.withViews tc hp) := by
  cases i with
  | cmdAccept =>
    have hcmds : (s.withViews tc hp).port.cmds = s.port.cmds := rfl
    simp only [exec, execCmdAccept, hcmds]
    cases s.port.cmds with
    | nil => rfl
    | cons c cs => simp only [andThen_ite]; rfl
  | eStart | eLen | eCksum => simp only [exec, execEStart, execELen, execECksum, andThen_ite]; rfl
  | eBody =>
    have hbody : bodyByte (s.withViews tc hp).enc (s.withViews tc hp).enc.pos.toNat =
        bodyByte s.enc s.enc.pos.toNat := rfl
    simp only [exec, execEBody, andThen_ite, hbody]
    cases bodyByte s.enc s.enc.pos.toNat <;> rfl
  | _ => cases hi

/-- The PORT rows of the ring that write no view (R91 to R95). -/
def ringRow : Instr → Bool
  | .push _ | .pushDrop _ | .pop _ | .peek | .available => true
  | _ => false

/-- A row of the ring reads the views only through `full_p` and `avail`. -/
theorem exec_ringRow_withViews {i : Instr} {s : State} {tc hp : BitVec 8} (hi : ringRow i = true)
    (hf : (s.withViews tc hp).fullP = s.fullP) (ha : (s.withViews tc hp).avail = s.avail) :
    exec i (s.withViews tc hp) = andThen (exec i s) fun t => .next (t.withViews tc hp) := by
  cases i with
  | push b | pushDrop b => simp only [exec, execPush, execPushDrop, andThen_ite, hf]; rfl
  | pop feed | peek => simp only [exec, execPop, execPeek, andThen_ite, ha]; rfl
  | available => simp only [exec, execAvailable, ha]; rfl
  | _ => cases hi

/-! ### The agents' runs and given views -/

theorem decoderRow_decoderInstr (s : State) : decoderRow (decoderInstr s) = true := by
  unfold decoderInstr
  split
  · split <;> rfl
  all_goals rfl

theorem encoderRow_encoderInstr (s : State) : encoderRow (encoderInstr s) = true := by
  unfold encoderInstr
  split <;> rfl

theorem decoderStep_withViews {s t : State} {tc hp : BitVec 8} (ha : (s.withViews tc hp).avail = s.avail)
    (h : decoderStep s = .next t) : decoderStep (s.withViews tc hp) = .next (t.withViews tc hp) := by
  have hsel : decoderInstr (s.withViews tc hp) = decoderInstr s := rfl
  rw [decoderStep_eq_exec] at h ⊢
  rw [hsel, exec_decoderRow_withViews (decoderRow_decoderInstr s) ha, h]
  rfl

theorem encoderStep_withViews {s t : State} (h : encoderStep s = .next t) (tc hp : BitVec 8) :
    encoderStep (s.withViews tc hp) = .next (t.withViews tc hp) := by
  have hsel : encoderInstr (s.withViews tc hp) = encoderInstr s := rfl
  rw [encoderStep_eq_exec] at h ⊢
  rw [hsel, exec_encoderRow_withViews (encoderRow_encoderInstr s), h]
  rfl

theorem State.withViews_decoderEnabled {s : State} {tc hp : BitVec 8} (ha : (s.withViews tc hp).avail = s.avail) :
    (s.withViews tc hp).decoderEnabled = s.decoderEnabled := by
  unfold State.decoderEnabled
  rw [ha]
  rfl

/-- RUN leaves `tail` and the parameters, so a current `tail_c` stays current along it. -/
theorem runDecoder_withViews {tc : BitVec 8} (hp : BitVec 8) : ∀ {n : Nat} {s t : State}, s.cfg.cdc = .atomic →
    s.tail = tc → runDecoder n s = .next t → runDecoder n (s.withViews tc hp) = .next (t.withViews tc hp)
  | 0, _, _, _, _, h => by cases h; rfl
  | n + 1, s, t, hc, htail, h => by
    have ha := State.withViews_avail hc htail hp
    unfold runDecoder at h ⊢
    rw [State.withViews_decoderEnabled ha]
    split at h
    · next he =>
      obtain ⟨u, hu, hrun⟩ := andThen_eq_next h
      rw [if_pos he, decoderStep_withViews ha hu]
      obtain ⟨hd, d, es, rfl, _⟩ := (decoderStep_move hu).frame
      exact runDecoder_withViews hp hc htail hrun
    · next he => rw [if_neg he]; cases h; rfl

theorem runEncoder_withViews (tc hp : BitVec 8) : ∀ {n : Nat} {s t : State}, runEncoder n s = .next t →
    runEncoder n (s.withViews tc hp) = .next (t.withViews tc hp)
  | 0, _, _, h => by cases h; rfl
  | n + 1, s, t, h => by
    have henabled : (s.withViews tc hp).encoderEnabled = s.encoderEnabled := rfl
    unfold runEncoder at h ⊢
    rw [henabled]
    split at h
    · next he =>
      obtain ⟨u, hu, hrun⟩ := andThen_eq_next h
      rw [if_pos he, encoderStep_withViews hu]
      exact runEncoder_withViews tc hp hrun
    · next he => rw [if_neg he]; cases h; rfl

theorem State.offer_withViews (s : State) (c : Command) (tc hp : BitVec 8) :
    (s.withViews tc hp).offer c = (s.offer c).withViews tc hp := by
  have hrst : (s.withViews tc hp).port.rst = s.port.rst := rfl
  unfold State.offer
  rw [hrst]
  split <;> rfl

theorem sendCommand_withViews {c : Command} {s t : State} (h : sendCommand c s = .next t) (tc hp : BitVec 8) :
    sendCommand c (s.withViews tc hp) = .next (t.withViews tc hp) := by
  unfold sendCommand at h ⊢
  rw [State.offer_withViews]
  exact runEncoder_withViews tc hp h

/-! ### Received bytes in the two modes -/

/-- A received byte ends in a SYNC step, so it leads from current views to current views. -/
theorem receiveByte_asSynchronised {b : Byte} {s t : State} (hc : s.cfg.cdc = .atomic) (h : receiveByte b s = .next t) :
    receiveByte b s.asSynchronised = .next t.asSynchronised := by
  obtain ⟨w, hw, hsync'⟩ := andThen_eq_next h
  obtain ⟨v, hv, hrun⟩ := andThen_eq_next hw
  obtain ⟨u, hrx, hsync⟩ := andThen_eq_next hv
  have hcu : u.cfg.cdc = .atomic := by rw [(ByteMove.rx b u hrx).grows.cfg, hc]
  obtain rfl : u = v := by
    rw [execSync, State.syncViews_atomic hcu] at hsync
    cases hsync
    rfl
  have hcw : w.cfg.cdc = .atomic := by rw [(runDecoder_reach hrun).grows.cfg, hcu]
  obtain rfl : w = t := by
    rw [execSync, State.syncViews_atomic hcw] at hsync'
    cases hsync'
    rfl
  have hrx' : rxInterrupt b s.asSynchronised = .next (u.withViews s.tail s.head) := by
    rw [State.asSynchronised_eq, rxInterrupt_withViews (State.withViews_fullP hc rfl _), hrx]
    rfl
  have hrun' : runDecoder runFuel u.asSynchronised = .next (w.withViews u.tail u.head) :=
    runDecoder_withViews u.head hcu rfl hrun
  unfold receiveByte
  rw [hrx', andThen_next, execSync_withViews, andThen_next, hrun', andThen_next, execSync_withViews]

theorem receiveBytes_asSynchronised : ∀ {bs : List Byte} {s t : State}, s.cfg.cdc = .atomic →
    receiveBytes bs s = .next t → receiveBytes bs s.asSynchronised = .next t.asSynchronised
  | [], _, _, _, h => by cases h; rfl
  | b :: bs, s, t, hc, h => by
    obtain ⟨u, hu, hrest⟩ := andThen_eq_next h
    have hcu : u.cfg.cdc = .atomic := by rw [(receiveByte_reach hu).grows.cfg, hc]
    unfold receiveBytes
    rw [receiveByte_asSynchronised hc hu]
    exact receiveBytes_asSynchronised hcu hrest

/-! ### Every operation in the two modes -/

/-- Settles O8. A byte step leaves the views as they were before it, RESET leaves them zero, and a received frame leaves them
current: in each case the SYNC step behind it makes them the indices. -/
theorem atomicOperationIsSynchronisedThenSync : Obligations.AtomicOperationIsSynchronisedThenSync := by
  intro i s t hc h
  have synced : ∀ {tc hp}, exec i s.asSynchronised = .next (t.withViews tc hp) →
      ∃ u, exec i s.asSynchronised = .next u ∧ exec (.sync true true) u = .next t.asSynchronised :=
    fun heq => ⟨_, heq, execSync_withViews t _ _⟩
  have row : exec i s.asSynchronised = andThen (exec i s) (fun v => .next (v.withViews s.tail s.head)) →
      ∃ u, exec i s.asSynchronised = .next u ∧ exec (.sync true true) u = .next t.asSynchronised :=
    fun heq => synced (by rw [heq, h]; rfl)
  have hfull : s.asSynchronised.fullP = s.fullP := State.withViews_fullP hc rfl s.tail
  have havail : s.asSynchronised.avail = s.avail := State.withViews_avail hc rfl s.head
  cases i with
  | push | pushDrop | pop | peek | available => exact row (exec_ringRow_withViews rfl hfull havail)
  | dSyncDiscard | dSyncMarker | dLenHi | dLenLo | dType | dBody | dCksum | dSkip =>
    exact row (exec_decoderRow_withViews rfl havail)
  | cmdAccept | eStart | eLen | eBody | eCksum => exact row (exec_encoderRow_withViews rfl s _ _)
  | encTx | encAt => exact synced (sendCommand_withViews h _ _)
  | decRx | decAtresp | decModem | decTxstat | decSkip => exact synced (receiveBytes_asSynchronised hc h)
  | sync a b =>
    rw [exec_sync, State.syncViews_atomic hc] at h
    cases h
    exact synced (congrArg Host.Outcome.next (State.syncViews_of_current rfl rfl a b))
  | reset => cases h; exact ⟨_, rfl, rfl⟩

end Sys2Proof.Machine
end

section
/-! SUPPORT. The ENCODER's steps as equations (R110 to R118): every move is the step that the phase register selects, and
the bytes it sends are those of the spec. -/

namespace Sys2Proof

/-! ### The bytes of a field by division (R69) -/

theorem byteOf16_zero_eq (v : Half) : byteOf16 v 0 = BitVec.ofNat 8 (v.toNat / 256) :=
  BitVec.eq_of_toNat_eq (byteOf16_toNat v 0)

theorem byteOf16_one_eq (v : Half) : byteOf16 v 1 = BitVec.ofNat 8 v.toNat := by
  apply BitVec.eq_of_toNat_eq
  rw [byteOf16_toNat, BitVec.toNat_ofNat]
  omega

theorem byteOf64_eq (v : Addr64) (i : Nat) : byteOf64 v i = BitVec.ofNat 8 (v.toNat / 256 ^ (7 - i)) := by
  have hpow : 2 ^ (56 - 8 * i) = 256 ^ (7 - i) := by
    rw [show 56 - 8 * i = 8 * (7 - i) by omega]
    exact pow_mul 2 8 (7 - i)
  apply BitVec.eq_of_toNat_eq
  rw [byteOf64_toNat, BitVec.toNat_ofNat, hpow]

namespace Machine

/-! ### Every move is a step -/

/-- An ENCODER that has no step waits (R110, R111). -/
theorem encoderStep_of_not_enabled {s : State} (he : s.encoderEnabled = false) : encoderStep s = .next s := by
  unfold State.encoderEnabled at he
  unfold encoderStep
  cases hp : s.enc.phase <;> simp only [hp] at he ⊢
  case eIdle =>
    have hc : s.port.cmds = [] := by simpa using he
    simp [execCmdAccept, wait, hc]
  case eStart => simp [execEStart, wait, he]
  case eLenHi | eLenLo => simp [execELen, wait, he]
  case eBody => simpa [execEBody, wait, hp] using fun hr hlt => absurd he (by simp [hr, hlt])
  case eCksum => simp [execECksum, wait, he]

/-- The converse of `encoderStep_move`: every move of the ENCODER is the step it takes. -/
theorem EncoderMove.encoderStep_eq {s t : State} (h : EncoderMove s t) : encoderStep s = .next t := by
  cases h with
  | wait he => exact encoderStep_of_not_enabled he
  | reject c cs hp hc hbig => simp [encoderStep, execCmdAccept, hp, hc, hbig]
  | accept c cs hp hc hfits => simp [encoderStep, execCmdAccept, hp, hc, hfits]
  | start hp hr => simp [encoderStep, execEStart, hp, hr]
  | lenHi hp hr | lenLo hp hr => simp [encoderStep, execELen, hp, hr]
  | body b hp hr hlt hb => simp [encoderStep, execEBody, hp, hr, hlt, hb]
  | cksum hp hr => simp [encoderStep, execECksum, hp, hr]

/-- The row that the phase register selects makes the ENCODER's move. -/
theorem EncoderMove.exec_eq {s t : State} {i : Instr} (h : EncoderMove s t) (hi : encoderInstr s = i) :
    exec i s = .next t := by
  rw [← hi, ← encoderStep_eq_exec, h.encoderStep_eq]

/-! ### Command acceptance (R111) -/

/-- The Length of a payload that fits `TXP` (R111). -/
theorem latch_txFrame_len {n : Nat} (h : n ≤ 241) :
    (BitVec.ofNat 8 n).setWidth 16 + BitVec.ofNat 16 Config.txOverhead = BitVec.ofNat 16 (n + 14) := by
  simp only [Config.txOverhead]
  bv_omega

/-- A latched payload stands in `TXP` from slot 0, and the slots behind it stay (R15, R111). -/
theorem read_latched_payload {m : Memory} {payload : List Byte} (hw : m.wf Config.payloadTxMax = true)
    (h : payload.length ≤ 241) (i : Nat) :
    (m.writeList 0 payload).read i = if i < payload.length then payload.getD i 0 else m.read i := by
  rw [Memory.read_writeList i hw (by rwa [Nat.zero_add])]
  simp

theorem commandOversized_txFrame_eq_false {id : Byte} {a64 : Addr64} {a16 : Half} {rad opt : Byte}
    {payload : List Byte} (h : payload.length ≤ 241) :
    commandOversized (.txFrame id a64 a16 rad opt payload) = false :=
  decide_eq_false (Nat.not_lt.2 h)

/-- Settles O36: the command fits, so CMD_ACCEPT latches it; the payload is written to `TXP` and its Length is known. -/
theorem commandIsLatched : Obligations.CommandIsLatched := by
  intro s rest hp hw
  constructor
  · intro id a64 a16 rad opt payload hc hlen
    refine ⟨_, (EncoderMove.accept _ _ hp hc (commandOversized_txFrame_eq_false hlen)).exec_eq
      (by rw [encoderInstr, hp]), read_latched_payload hw hlen, ?_⟩
    simp only [EncoderState.latch, State.reply, hc, List.tail_cons, latch_txFrame_len hlen]
  · intro id c1 c2 hc
    refine ((EncoderMove.accept _ _ hp hc rfl).exec_eq (by rw [encoderInstr, hp])).trans ?_
    simp only [EncoderState.latch, State.reply, hc, List.tail_cons, Config.atcmdLen]
    rfl

/-! ### Waiting (R110, R111) -/

/-- Settles O38: the phase register selects no command acceptance outside E_IDLE, and every sending row asks for
`tx_ready`. -/
theorem encoderWaits : Obligations.EncoderWaits := by
  intro s
  refine ⟨fun hp => exec_encoderRow_not_selected rfl ?_, fun hr => ?_⟩
  · unfold encoderInstr
    split <;> simp_all
  · exact ⟨if_neg (by simp [hr]), (if_neg (by simp [hr])).trans (if_neg (by simp [hr])), if_neg (by simp [hr]),
      if_neg (by simp [hr])⟩

/-! ### The bytes around the body (R112, R113, R116) -/

/-- Settles O39: the three moves of the header, with the two bytes of the Length by division. -/
theorem headerBytesAreSent : Obligations.HeaderBytesAreSent := by
  intro s hr
  refine ⟨fun hp => ?_, fun hp => ?_, fun hp => ?_⟩
  · exact (EncoderMove.start hp hr).exec_eq (by rw [encoderInstr, hp])
  · rw [← byteOf16_zero_eq]
    exact (EncoderMove.lenHi hp hr).exec_eq (by rw [encoderInstr, hp])
  · rw [← byteOf16_one_eq]
    exact (EncoderMove.lenLo hp hr).exec_eq (by rw [encoderInstr, hp])

theorem State.txChecksum_eq (s : State) : s.txChecksum = BitVec.ofNat 8 (255 - s.enc.txSum.toNat) := by
  unfold State.txChecksum Config.chkOk
  bv_omega

/-- Settles O42: the checksum byte by subtraction. -/
theorem checksumByteIsSent : Obligations.ChecksumByteIsSent := by
  intro s hp hr
  rw [← State.txChecksum_eq]
  exact (EncoderMove.cksum hp hr).exec_eq (by rw [encoderInstr, hp])

/-! ### The bytes of the body (R114, R115, R118) -/

/-- E_BODY where the layout has the offset: the byte is sent and summed, and behind the last one comes E_CKSUM (R115). -/
theorem exec_eBody_of_bodyByte {s : State} {b : Byte} (hp : s.enc.phase = .eBody) (hr : s.port.txReady = true)
    (hlt : s.enc.pos < s.enc.len) (hb : bodyByte s.enc s.enc.pos.toNat = some b) :
    exec .eBody s =
      .next { s with
        port := { s.port with txOut := s.port.txOut ++ [b] },
        enc := { s.enc with
          txSum := s.enc.txSum + b, pos := s.enc.pos + 1,
          phase := if s.enc.pos.toNat + 1 = s.enc.len.toNat then .eCksum else .eBody } } := by
  have hend : s.enc.pos.toNat + 1 = s.enc.len.toNat ↔ s.enc.pos + 1 = s.enc.len := by bv_omega
  simp only [hend]
  exact (EncoderMove.body b hp hr hlt hb).exec_eq (by rw [encoderInstr, hp])

/-- Behind the fixed fields stands the payload (R114). -/
theorem bodyTxByte_payload (e : EncoderState) {i : Nat} (hi : i < 241) :
    bodyTxByte e (i + 14) = some (e.txp.read i) := by
  simp [bodyTxByte, Config.payloadTxMax, hi]

/-- `body_tx` with the bytes of the two addresses by division (R114). -/
theorem bodyTxByte_eq_some (e : EncoderState) (k : Nat) (hk : k < 255) :
    bodyTxByte e k = some (
      if k = 0 then 0x10 else if k = 1 then e.txId
      else if k ≤ 9 then BitVec.ofNat 8 (e.txAddr64.toNat / 256 ^ (9 - k))
      else if k = 10 then BitVec.ofNat 8 (e.txAddr16.toNat / 256)
      else if k = 11 then BitVec.ofNat 8 e.txAddr16.toNat
      else if k = 12 then e.txRadius else if k = 13 then e.txOpts else e.txp.read (k - 14)) :=
  match k with
  | 0 | 1 | 12 | 13 => rfl
  | 2 | 3 | 4 | 5 | 6 | 7 | 8 | 9 => congrArg some (byteOf64_eq e.txAddr64 _)
  | 10 => congrArg some (byteOf16_zero_eq e.txAddr16)
  | 11 => congrArg some (byteOf16_one_eq e.txAddr16)
  | i + 14 => by simpa using bodyTxByte_payload e (show i < 241 by omega)

/-- Settles O40: the byte that `body_tx` has at this offset. -/
theorem txBodyByteIsSent : Obligations.TxBodyByteIsSent := by
  rintro s k b hp hkind hr hlt rfl hk rfl
  exact exec_eBody_of_bodyByte hp hr hlt (by rw [bodyByte, hkind]; exact bodyTxByte_eq_some s.enc _ hk)

theorem bodyAtByte_eq_getElem? (e : EncoderState) (k : Nat) :
    bodyAtByte e k = (bodyAt e.atId e.atC1 e.atC2)[k]? :=
  match k with
  | 0 | 1 | 2 | 3 | _ + 4 => rfl

/-- Settles O41: the byte that `body_at` has at this offset. -/
theorem atBodyByteIsSent : Obligations.AtBodyByteIsSent := by
  rintro s k hp hkind hr hlt rfl hk
  have hbyte := List.getElem?_eq_getElem (l := bodyAt s.enc.atId s.enc.atC1 s.enc.atC2) hk
  refine ⟨_, hbyte, exec_eBody_of_bodyByte hp hr hlt ?_⟩
  rw [bodyByte, hkind]
  exact (bodyAtByte_eq_getElem? s.enc _).trans hbyte

end Machine
end Sys2Proof
end

section
/-! SUPPORT. Sent frames (R111 to R119): the ENCODER's moves in a row, from an idle sender that is offered a command to the
idle sender whose frame is on `tx_out`. -/

namespace Sys2Proof.Machine

/-! ### The ENCODER's moves in a row -/

theorem runEncoder_of_not_enabled {s : State} (he : s.encoderEnabled = false) (n : Nat) :
    runEncoder n s = .next s := by
  cases n with
  | zero => rfl
  | succ n => rw [runEncoder, if_neg (by simp [he])]

/-- A run of the ENCODER makes its move and goes on; where it waits, the run has ended. -/
theorem EncoderMove.runEncoder_succ {s t : State} (h : EncoderMove s t) (n : Nat) :
    runEncoder (n + 1) s = runEncoder n t := by
  cases he : s.encoderEnabled with
  | true => rw [runEncoder, if_pos he, h.encoderStep_eq, andThen_next]
  | false =>
    obtain rfl : t = s := by
      have hstep := h.encoderStep_eq.symm.trans (encoderStep_of_not_enabled he)
      injection hstep
    rw [runEncoder_of_not_enabled he, runEncoder_of_not_enabled he]

/-- An idle sender has no step (R111). -/
theorem State.idleSender.not_enabled {s : State} (h : s.idleSender) : s.encoderEnabled = false := by
  obtain ⟨hp, hc, _⟩ := h
  simp [State.encoderEnabled, hp, hc]

/-- An offered command that was answered is gone, and the reply is all it left on the ports (R111). -/
theorem State.idleSender.reply_offer {s : State} (h : s.idleSender) (c : Command) (r : CmdStatus) :
    (s.offer c).reply r = { s with port := { s.port with cmdStatus := some r } } := by
  obtain ⟨_, hc, _, hrst, _⟩ := h
  simp [State.reply, State.offer_outside_reset hrst, hc]

theorem State.idleSender.cmds_offer {s : State} (h : s.idleSender) (c : Command) : (s.offer c).port.cmds = [c] := by
  obtain ⟨_, hc, _, hrst, _⟩ := h
  simp [hrst, hc]

theorem State.idleSender.phase_offer {s : State} (h : s.idleSender) (c : Command) : (s.offer c).enc.phase = .eIdle := by
  obtain ⟨hp, _⟩ := h
  rw [State.offer_enc, hp]

/-- An idle sender rejects a command it cannot frame and is idle again (R111, R181). -/
theorem sendCommand_oversized {s : State} (h : s.idleSender) {c : Command} (hc : commandOversized c = true) :
    sendCommand c s = .next { s with port := { s.port with cmdStatus := some .rejected } } := by
  have hmove : EncoderMove (s.offer c) ((s.offer c).reply .rejected) :=
    .reject c [] (h.phase_offer c) (h.cmds_offer c) hc
  have hidle : State.idleSender { s with port := { s.port with cmdStatus := some .rejected } } := h
  rw [h.reply_offer c .rejected] at hmove
  exact (hmove.runEncoder_succ _).trans (runEncoder_of_not_enabled hidle.not_enabled _)

/-- Settles O37: CMD_ACCEPT rejects the command, and a rejected command leaves the ENCODER idle with nothing to send. -/
theorem oversizedCommandIsRejected : Obligations.OversizedCommandIsRejected := by
  intro s id a64 a16 rad opt payload hlen
  have hbig : commandOversized (.txFrame id a64 a16 rad opt payload) = true := decide_eq_true hlen
  refine ⟨fun rest hp hc => ?_, fun hidle => sendCommand_oversized hidle hbig⟩
  refine ((EncoderMove.reject _ _ hp hc hbig).exec_eq (by rw [encoderInstr, hp])).trans ?_
  rw [State.reply, hc, List.tail_cons]

/-! ### A frame from its body -/

/-- `s` with the bytes `bs` handed to `tx_out` and the encoder's registers at `e`. -/
def State.sent (s : State) (bs : List Byte) (e : EncoderState) : State :=
  { s with enc := e, port := { s.port with txOut := s.port.txOut ++ bs } }

@[simp] theorem State.sent_enc (s : State) (bs : List Byte) (e : EncoderState) : (s.sent bs e).enc = e := rfl

@[simp] theorem State.sent_sent (s : State) (bs cs : List Byte) (e e' : EncoderState) :
    (s.sent bs e).sent cs e' = s.sent (bs ++ cs) e' := by
  simp [State.sent]

/-- With the bytes `bs` of the body still to come, the ENCODER sends and sums them all and goes to E_CKSUM (R115). -/
theorem runEncoder_body {bs : List Byte} {s : State}
    (hp : s.enc.phase = if s.enc.pos = s.enc.len then .eCksum else .eBody) (hr : s.port.txReady = true)
    (hend : s.enc.pos.toNat + bs.length = s.enc.len.toNat)
    (hbyte : ∀ i, i < bs.length → bodyByte s.enc (s.enc.pos.toNat + i) = bs[i]?) (n : Nat) :
    runEncoder (bs.length + n) s =
      runEncoder n
        (s.sent bs { s.enc with
          phase := .eCksum, pos := s.enc.pos + BitVec.ofNat 16 bs.length, txSum := s.enc.txSum + sumBytes bs }) := by
  induction bs generalizing s with
  | nil =>
    have hpos : s.enc.pos = s.enc.len := BitVec.eq_of_toNat_eq hend
    rw [if_pos hpos] at hp
    simp [State.sent, ← hp, sumBytes]
  | cons b bs ih =>
    rw [List.length_cons] at hend
    have hlt : s.enc.pos < s.enc.len := by bv_omega
    have hne : s.enc.pos ≠ s.enc.len := by bv_omega
    have hsucc : (s.enc.pos + 1).toNat = s.enc.pos.toNat + 1 := by bv_omega
    rw [if_neg hne] at hp
    have hmove := EncoderMove.body b hp hr hlt (hbyte 0 (Nat.succ_pos _))
    have hrest : ∀ i, i < bs.length → bodyByte s.enc ((s.enc.pos + 1).toNat + i) = bs[i]? := fun i hi => by
      rw [hsucc, Nat.add_assoc, Nat.add_comm 1]
      exact hbyte (i + 1) (Nat.succ_lt_succ hi)
    have hleft : (s.enc.pos + 1).toNat + bs.length = s.enc.len.toNat := by omega
    rw [List.length_cons, Nat.add_right_comm, hmove.runEncoder_succ]
    refine (ih (s := ((s.sendByte b).addTxSum b).advanceSend) rfl hr hleft hrest).trans ?_
    have hpos : s.enc.pos + 1 + BitVec.ofNat 16 bs.length = s.enc.pos + BitVec.ofNat 16 (bs.length + 1) := by bv_omega
    simp [State.sent, sumBytes, BitVec.add_assoc, ← hpos]

/-- From E_START the ENCODER sends the marker and the Length, unsummed, and goes to E_BODY with a cleared sum (R112, R113). -/
theorem runEncoder_header {s : State} (hp : s.enc.phase = .eStart) (hr : s.port.txReady = true) (n : Nat) :
    runEncoder (n + 3) s =
      runEncoder n (s.sent (Config.start :: bytes16 s.enc.len) { s.enc with phase := .eBody, txSum := 0 }) := by
  have hstart : EncoderMove s (s.sent [Config.start] { s.enc with phase := .eLenHi }) := .start hp hr
  have hhi := EncoderMove.lenHi (s := s.sent [Config.start] { s.enc with phase := .eLenHi }) rfl hr
  have hlo := EncoderMove.lenLo
    (s := (s.sent [Config.start] { s.enc with phase := .eLenHi }).sent [byteOf16 s.enc.len 0]
      { s.enc with phase := .eLenLo }) rfl hr
  refine (hstart.runEncoder_succ _).trans <| (hhi.runEncoder_succ _).trans <| (hlo.runEncoder_succ _).trans ?_
  simp [State.sent, State.sendByte, State.clearTxSum, State.toEPhase, bytes16]

/-- E_CKSUM sends the checksum byte of the bytes summed (R116). -/
theorem runEncoder_cksum {s : State} {body : List Byte} (hp : s.enc.phase = .eCksum) (hr : s.port.txReady = true)
    (hsum : s.enc.txSum = sumBytes body) (n : Nat) :
    runEncoder (n + 1) s = runEncoder n (s.sent [checksumOf body] { s.enc with phase := .eIdle }) := by
  have hck : s.txChecksum = checksumOf body := congrArg (Config.chkOk - ·) hsum
  rw [(EncoderMove.cksum hp hr).runEncoder_succ, hck]
  rfl

/-- The registers hold a frame of this body: the Length counts its bytes, and the layout gives them in order (R114, R115,
R118). -/
structure EncoderState.Holds (e : EncoderState) (body : List Byte) : Prop where
  len : e.len = BitVec.ofNat 16 body.length
  short : body.length ≤ 255
  pos : 0 < body.length
  byte : ∀ k, k < body.length → bodyByte e k = body[k]?

/-- From E_START the ENCODER sends the frame of the body it holds and is idle again (R112 to R116). -/
theorem runEncoder_frame {body : List Byte} {s : State} (hp : s.enc.phase = .eStart) (hr : s.port.txReady = true)
    (hpos : s.enc.pos = 0) (hb : s.enc.Holds body) (n : Nat) :
    runEncoder (body.length + (n + 1) + 3) s =
      runEncoder n (s.sent (wireFrame body (checksumOf body))
        { s.enc with phase := .eIdle, pos := s.enc.len, txSum := sumBytes body }) := by
  have hlen : s.enc.len.toNat = body.length := by rw [hb.len]; have := hb.short; bv_omega
  have hfirst : s.enc.pos ≠ s.enc.len := by have := hb.pos; bv_omega
  have hzero : s.enc.pos.toNat = 0 := congrArg BitVec.toNat hpos
  rw [runEncoder_header hp hr, runEncoder_body, runEncoder_cksum (body := body)]
  · simp [wireFrame, hpos, ← hb.len]
  · rfl
  · exact hr
  · exact BitVec.zero_add _
  · exact (if_neg hfirst).symm
  · exact hr
  · show s.enc.pos.toNat + body.length = s.enc.len.toNat
    omega
  · intro i hi
    show bodyByte s.enc (s.enc.pos.toNat + i) = _
    rw [hzero, Nat.zero_add]
    exact hb.byte i hi

/-- What R111 latches is ready to be sent. -/
theorem latch_phase_pos (e : EncoderState) (c : Command) : (e.latch c).phase = .eStart ∧ (e.latch c).pos = 0 := by
  cases c <;> exact ⟨rfl, rfl⟩

/-- An idle sender that is offered a command sends the frame of the body the latched registers hold, and is idle again
(R111, R117, R119). -/
theorem sendCommand_frame {s : State} (h : s.idleSender) {c : Command} {body : List Byte}
    (hc : commandOversized c = false) (hb : (s.enc.latch c).Holds body) :
    sendCommand c s = .next { s with
      port := { s.port with
        cmdStatus := some .accepted, txOut := s.port.txOut ++ wireFrame body (checksumOf body) },
      enc := { s.enc.latch c with phase := .eIdle, pos := (s.enc.latch c).len, txSum := sumBytes body } } := by
  have ⟨_, hcmds, hr, _, _⟩ := h
  obtain ⟨hstart, hpos⟩ := latch_phase_pos s.enc c
  obtain ⟨n, hn⟩ : ∃ n, sendFuel = body.length + (n + 1) + 3 + 1 :=
    ⟨sendFuel - body.length - 5, by have := hb.short; unfold sendFuel; omega⟩
  have hmove : EncoderMove (s.offer c) { (s.offer c).reply .accepted with enc := s.enc.latch c } := by
    rw [← State.offer_enc s c]
    exact .accept c [] (h.phase_offer c) (h.cmds_offer c) hc
  rw [sendCommand, hn, hmove.runEncoder_succ, h.reply_offer]
  refine (runEncoder_frame (s := { s with enc := s.enc.latch c, port := { s.port with cmdStatus := some .accepted } })
    hstart hr hpos hb n).trans ?_
  exact runEncoder_of_not_enabled (by simp [State.encoderEnabled, State.sent, hcmds]) n

/-! ### The two sent frames -/

/-- A Length below 256 has a zero high byte (R69). -/
theorem bytes16_ofNat {n : Nat} (h : n < 256) : bytes16 (BitVec.ofNat 16 n) = [0x00, BitVec.ofNat 8 n] := by
  have hto : (BitVec.ofNat 16 n).toNat = n := by bv_omega
  rw [bytes16, byteOf16_zero_eq, byteOf16_one_eq, hto, Nat.div_eq_of_lt h]
  rfl

/-- The wire form of a body that the ENCODER can send (R60, R117). -/
theorem wireFrame_of_short {body : List Byte} (h : body.length < 256) :
    wireFrame body (checksumOf body) =
      [0x7E, 0x00, BitVec.ofNat 8 body.length] ++ body ++ [0xFF - sumBytes body] := by
  rw [wireFrame, bytes16_ofNat h]
  rfl

/-- Settles O44: the latched registers hold `body_at`. -/
theorem encAtSendsItsFrame : Obligations.EncAtSendsItsFrame := by
  intro id c1 c2 s h
  have hb : (s.enc.latch (.atFrame id c1 c2)).Holds (bodyAt id c1 c2) :=
    ⟨rfl, by simp [bodyAt], by simp [bodyAt], fun k _ => bodyAtByte_eq_getElem? _ k⟩
  have hsum : sumBytes (bodyAt id c1 c2) = 0x08 + id + c1 + c2 := by
    simp [bodyAt, sumBytes, typeAt, BitVec.add_assoc]
  refine (sendCommand_frame h rfl hb).trans ?_
  rw [wireFrame_of_short (by simp [bodyAt]), hsum]
  rfl

theorem length_bodyTx (id : Byte) (a64 : Addr64) (a16 : Half) (rad opt : Byte) (payload : List Byte) :
    (bodyTx id a64 a16 rad opt payload).length = payload.length + 14 := by
  simp +arith [bodyTx]

/-- The registers of a latched ENC_TX hold `body_tx`: the fixed fields one by one, then the payload in `TXP` (R114). -/
theorem holds_bodyTx {e : EncoderState} (hw : e.txp.wf Config.payloadTxMax = true) (id : Byte) (a64 : Addr64)
    (a16 : Half) (rad opt : Byte) {payload : List Byte} (h : payload.length ≤ 241) :
    (e.latch (.txFrame id a64 a16 rad opt payload)).Holds (bodyTx id a64 a16 rad opt payload) := by
  have hlength := length_bodyTx id a64 a16 rad opt payload
  refine ⟨?_, by omega, by omega, fun k hk => ?_⟩
  · rw [hlength]
    exact latch_txFrame_len h
  · match k with
    | 0 | 1 | 2 | 3 | 4 | 5 | 6 | 7 | 8 | 9 | 10 | 11 | 12 | 13 => rfl
    | i + 14 =>
      have hi : i < payload.length := by omega
      have hread : (e.txp.writeList 0 payload).read i = payload[i] := by
        rw [read_latched_payload hw h, if_pos hi, List.getD_eq_getElem _ _ hi]
      calc bodyTxByte (e.latch (.txFrame id a64 a16 rad opt payload)) (i + 14)
          = some ((e.txp.writeList 0 payload).read i) := bodyTxByte_payload _ (by omega)
        _ = payload[i]? := by rw [hread, List.getElem?_eq_getElem hi]

/-- Settles O43: the latched registers hold `body_tx`. -/
theorem encTxSendsItsFrame : Obligations.EncTxSendsItsFrame := by
  rintro id a64 a16 rad opt payload body s h hlen hbody
  obtain rfl : bodyTx id a64 a16 rad opt payload = body := hbody.symm
  have ⟨_, _, _, _, hw⟩ := h
  have hlength := length_bodyTx id a64 a16 rad opt payload
  refine ⟨_, sendCommand_frame h (commandOversized_txFrame_eq_false hlen) (holds_bodyTx hw id a64 a16 rad opt hlen),
    read_latched_payload hw hlen, ?_⟩
  rw [wireFrame_of_short (by omega), hlength, ← latch_txFrame_len hlen]
  rfl

end Sys2Proof.Machine
end

section
/-! SUPPORT. Received bytes (R130 to R151): what one byte does to a block that waits for it, and the bytes of a frame that
is skipped, one after another. -/

namespace Sys2Proof.Machine

/-! ### Every move of the DECODER is a step -/

/-- A DECODER that has no step waits (R130, R133, R172). -/
theorem decoderStep_of_not_enabled {s : State} (he : s.decoderEnabled = false) : decoderStep s = .next s := by
  cases ha : s.avail with
  | false =>
    rw [decoderStep_eq_exec]
    exact exec_decoderRow_of_not_avail (decoderRow_decoderInstr s) ha
  | true =>
    rw [State.decoderEnabled, ha, Bool.true_and] at he
    unfold decoderStep
    cases hp : s.dec.phase <;> simp only [hp] at he ⊢
    case dSync | dLenHi | dLenLo => cases he
    case dType =>
      cases hr : route s.cfg s.headByte s.dec.len with
      | path p q => simp [hr] at he
      | fail k => simp only [hr] at he; simp [execDType, wait, hr, he]
    case dBody => simp [execDBody, wait, of_decide_eq_false he]
    case dCksum => simp [execDCksum, wait, he]
    case dSkip => exact if_neg fun ⟨_, _, hne⟩ => of_decide_eq_false he hne

/-- The converse of `decoderStep_move`: every move of the DECODER is the step it takes. -/
theorem DecoderMove.decoderStep_eq {s t : State} (h : DecoderMove s t) : decoderStep s = .next t := by
  cases h with
  | wait he => exact decoderStep_of_not_enabled he
  | discard hp ha hb => simp [decoderStep, execDSyncDiscard, hp, ha, hb]
  | marker hp ha hb => simp [decoderStep, execDSyncMarker, hp, ha, hb]
  | lenHi hp ha => simp [decoderStep, execDLenHi, hp, ha]
  | lenLo hp ha => simp [decoderStep, execDLenLo, hp, ha]
  | path p q hp ha hr => simp [decoderStep, execDType, hp, ha, hr]
  | report k hp ha hr he => simp [decoderStep, execDType, hp, ha, hr, he]
  | body d hp ha hlt hst => simp only [decoderStep, execDBody, hp, ha, hlt, hst, and_self, if_true]
  | cksum hp ha he => simp [decoderStep, execDCksum, hp, ha, he]
  | skip hp ha hne =>
    rw [decoderStep, hp]
    exact if_pos ⟨hp, ha, hne⟩

theorem runDecoder_of_not_enabled {s : State} (he : s.decoderEnabled = false) (n : Nat) :
    runDecoder n s = .next s := by
  cases n with
  | zero => rfl
  | succ n => rw [runDecoder, if_neg (by simp [he])]

/-- RUN makes the DECODER's move and goes on; where the DECODER waits, RUN has ended. -/
theorem DecoderMove.runDecoder_succ {s t : State} (h : DecoderMove s t) (n : Nat) :
    runDecoder (n + 1) s = runDecoder n t := by
  cases he : s.decoderEnabled with
  | true => rw [runDecoder, if_pos he, h.decoderStep_eq, andThen_next]
  | false =>
    obtain rfl : t = s := by
      have hstep := h.decoderStep_eq.symm.trans (decoderStep_of_not_enabled he)
      injection hstep
    rw [runDecoder_of_not_enabled he, runDecoder_of_not_enabled he]

/-! ### One received byte -/

/-- The block waits for a byte: nothing is unread, the views are current, the host is ready and `rst` is low. -/
def State.quiet (s : State) : Prop := s.RingInv ∧ s.drained ∧ s.port.evReady = true ∧ s.port.rst = false

theorem State.listening_iff (s : State) : s.listening ↔ s.quiet ∧ s.dec.phase = .dSync := by
  unfold State.listening State.quiet
  tauto

/-- A byte has arrived and the DECODER sees it: PUSH and SYNC (R91, R98). -/
def State.withByte (s : State) (b : Byte) : State := (s.pushByte b).syncViews true true

/-- The one visible byte has been popped, with the decoder's registers at `d` and the events `es` delivered. -/
def State.taken (s : State) (d : DecoderState) (es : List Event) : State :=
  { s with head := s.head + 1, dec := d, port := { s.port with events := s.port.events ++ es } }

@[simp] theorem State.withByte_dec (s : State) (b : Byte) : (s.withByte b).dec = s.dec := by simp [State.withByte]

@[simp] theorem State.withByte_cfg (s : State) (b : Byte) : (s.withByte b).cfg = s.cfg := by simp [State.withByte]

@[simp] theorem State.withByte_port (s : State) (b : Byte) : (s.withByte b).port = s.port := by simp [State.withByte]

/-- An empty ring is not full for a producer with a current view (R90). -/
theorem State.drained.fullP_eq_false {s : State} (h : s.drained) : s.fullP = false := by
  obtain ⟨htail, _, hheadView⟩ := h
  rw [State.fullP, hheadView, htail, beq_eq_false_iff_ne]
  bv_omega

/-- The byte that has arrived is visible (R90). -/
theorem State.quiet.withByte_avail {s : State} (h : s.quiet) (b : Byte) : (s.withByte b).avail = true := by
  obtain ⟨_, ⟨htail, _, _⟩, _⟩ := h
  rw [State.avail_iff, State.withByte, State.syncViews_tailView, State.syncViews_head, if_pos rfl,
    State.pushByte_head, State.pushByte_tail, htail]
  bv_omega

/-- The byte that has arrived is the one at `head` (R91, R94). -/
theorem State.quiet.withByte_headByte {s : State} (h : s.quiet) (b : Byte) : (s.withByte b).headByte = b := by
  obtain ⟨⟨hw, _⟩, ⟨htail, _⟩, _⟩ := h
  simp [State.headByte, State.withByte, Memory.read_write hw, htail]

/-- Once the one byte is popped, the DECODER has no step (R130). -/
theorem State.drained.taken_not_enabled {s : State} (h : s.drained) (b : Byte) (d : DecoderState) (es : List Event) :
    ((s.withByte b).taken d es).decoderEnabled = false := by
  obtain ⟨htail, _, _⟩ := h
  have hview : ((s.withByte b).taken d es).tailView = (s.withByte b).tailView := rfl
  have ha : ((s.withByte b).taken d es).avail = false := by
    rw [avail_eq_false_iff, hview]
    simp [State.taken, State.withByte, htail]
  rw [State.decoderEnabled, ha, Bool.false_and]

/-- `s.Received bs d es t`: the bytes `bs` arrive at `s` and are taken one by one, the block ends in `t` and waits again,
with the decoder's registers at `d` and the events `es` delivered; nothing else changes but the indices and the ring's slots
from `head` on (R22, R151). -/
structure State.Received (s : State) (bs : List Byte) (d : DecoderState) (es : List Event) (t : State) : Prop where
  run : receiveBytes bs s = .next t
  quiet : t.quiet
  head : t.head = s.head + BitVec.ofNat 8 bs.length
  dec : t.dec = d
  port : t.port = { s.port with events := s.port.events ++ es }
  enc : t.enc = s.enc
  cfg : t.cfg = s.cfg
  sched : t.sched = s.sched
  tick : t.tick = s.tick
  ring : ∀ k, bs.length ≤ k → k < 256 →
    t.ring.read (s.head + BitVec.ofNat 8 k).toNat = s.ring.read (s.head + BitVec.ofNat 8 k).toNat

theorem State.Received.nil {s : State} (hq : s.quiet) : s.Received [] s.dec [] s where
  run := rfl
  quiet := hq
  head := by simp
  dec := rfl
  port := by simp
  enc := rfl
  cfg := rfl
  sched := rfl
  tick := rfl
  ring _ _ _ := rfl

theorem State.Received.append {s t u : State} {bs cs : List Byte} {d d' : DecoderState} {es es' : List Event}
    (h : s.Received bs d es t) (h' : t.Received cs d' es' u) : s.Received (bs ++ cs) d' (es ++ es') u where
  run := by rw [receiveBytes_append, h.run, andThen_next, h'.run]
  quiet := h'.quiet
  head := by rw [h'.head, h.head, List.length_append, BitVec.add_assoc, BitVec.ofNat_add]
  dec := h'.dec
  port := by rw [h'.port, h.port, List.append_assoc]
  enc := h'.enc.trans h.enc
  cfg := h'.cfg.trans h.cfg
  sched := h'.sched.trans h.sched
  tick := h'.tick.trans h.tick
  ring k hk hlt := by
    rw [List.length_append] at hk
    have hslot : s.head + BitVec.ofNat 8 k = t.head + BitVec.ofNat 8 (k - bs.length) := by
      rw [h.head, BitVec.add_assoc, ← BitVec.ofNat_add, Nat.add_sub_cancel' (by omega)]
    calc u.ring.read (s.head + BitVec.ofNat 8 k).toNat
        = t.ring.read (s.head + BitVec.ofNat 8 k).toNat := by
          rw [hslot]; exact h'.ring _ (by omega) (by omega)
      _ = s.ring.read (s.head + BitVec.ofNat 8 k).toNat := h.ring k (by omega) hlt

/-- A received byte, from what RUN does with it: RUN leads to a state with the byte popped. -/
theorem State.quiet.received_byte {s : State} {b : Byte} {d : DecoderState} {es : List Event} {n : Nat} (hq : s.quiet)
    (hrun : runDecoder runFuel (s.withByte b) = runDecoder n ((s.withByte b).taken d es)) :
    s.Received [b] d es (((s.withByte b).taken d es).syncViews true true) := by
  have ⟨hi, hdr, hev, hrst⟩ := hq
  have ⟨hw, _⟩ := hi
  have ⟨htail, _, _⟩ := hdr
  have hfull := hdr.fullP_eq_false
  rw [runDecoder_of_not_enabled (hdr.taken_not_enabled b d es)] at hrun
  have hbyte : (s.withByte b).RingInv := RingInv_syncViews (RingInv_pushByte hi hfull b) true true
  have htaken : ((s.withByte b).taken d es).RingInv := RingInv_popByte hbyte (hq.withByte_avail b) false
  constructor
  case run =>
    have hone : receiveByte b s = .next (((s.withByte b).taken d es).syncViews true true) := by
      rw [receiveByte, rxInterrupt_of_not_full hrst hfull]
      exact congrArg (andThen · (execSync true true)) hrun
    rw [receiveBytes, hone]
    rfl
  case quiet =>
    refine ⟨RingInv_syncViews htaken true true, ⟨?_, ?_, ?_⟩, ?_, ?_⟩ <;>
      simp [State.taken, State.withByte, htail, hev, hrst]
  case ring =>
    intro k hk hlt
    have hne : (s.head + BitVec.ofNat 8 k).toNat ≠ s.tail.toNat := by
      rw [List.length_singleton] at hk
      rw [htail]
      bv_omega
    have hring : (((s.withByte b).taken d es).syncViews true true).ring = s.ring.write s.tail.toNat b := by
      simp [State.taken, State.withByte]
    rw [hring, Memory.read_write hw, if_neg hne]
  all_goals simp [State.taken, State.withByte]

/-- A received byte that the DECODER takes in one move. -/
theorem State.quiet.received_of_move {s u : State} {b : Byte} {d : DecoderState} {es : List Event} (hq : s.quiet)
    (hmove : DecoderMove (s.withByte b) u) (hu : u = (s.withByte b).taken d es) : ∃ t, s.Received [b] d es t :=
  ⟨_, hq.received_byte (hu ▸ hmove.runDecoder_succ 511)⟩

/-! ### The bytes of a header (R132 to R135) -/

/-- The Length is put together from its two bytes (R134, R135). -/
theorem be16_zero_add (h l : Byte) : be16 h 0 + l.setWidth 16 = be16 h l := by
  have hzero : (be16 h 0).toNat = 256 * h.toNat := be16_toNat h 0
  apply BitVec.eq_of_toNat_eq
  rw [BitVec.toNat_add, hzero, BitVec.toNat_setWidth, be16_toNat]
  omega

section
variable {s : State} (hq : s.quiet)
include hq

theorem State.quiet.received_marker (hp : s.dec.phase = .dSync) :
    ∃ t, s.Received [Config.start] { s.dec with phase := .dLenHi } [] t := by
  refine hq.received_of_move (.marker ?_ (hq.withByte_avail _) (hq.withByte_headByte _)) ?_
  · simpa using hp
  · simp [State.popByte, State.toDPhase, State.taken]

theorem State.quiet.received_lenHi (hp : s.dec.phase = .dLenHi) (b : Byte) :
    ∃ t, s.Received [b] { s.dec with len := be16 b 0, phase := .dLenLo } [] t := by
  refine hq.received_of_move (.lenHi ?_ (hq.withByte_avail b)) ?_
  · simpa using hp
  · simp [State.popByte, State.setLenHi, State.toDPhase, State.taken, hq.withByte_headByte]

theorem State.quiet.received_lenLo (hp : s.dec.phase = .dLenLo) (b : Byte) :
    ∃ t, s.Received [b]
      { s.dec with len := s.dec.len + b.setWidth 16, pos := 0, rxSum := 0, phase := .dType } [] t := by
  refine hq.received_of_move (.lenLo ?_ (hq.withByte_avail b)) ?_
  · simpa using hp
  · simp [State.popByte, State.addLenLo, State.clearRxSum, State.toDPhase, State.taken, hq.withByte_headByte]

/-- The marker and the Length leave the DECODER in D_TYPE with that Length and a cleared sum. -/
theorem State.quiet.received_header (hp : s.dec.phase = .dSync) (len : Half) :
    ∃ t, s.Received (Config.start :: bytes16 len) { s.dec with len := len, pos := 0, rxSum := 0, phase := .dType } [] t := by
  obtain ⟨t, ht⟩ := hq.received_marker hp
  obtain ⟨u, hu⟩ := ht.quiet.received_lenHi (by rw [ht.dec]) (byteOf16 len 0)
  obtain ⟨v, hv⟩ := hu.quiet.received_lenLo (by rw [hu.dec]) (byteOf16 len 1)
  have hall := (ht.append hu).append hv
  simp only [hu.dec, ht.dec, be16_zero_add, be16_byteOf16] at hall
  exact ⟨v, hall⟩

end

/-! ### A frame that is skipped (R147 to R150) -/

/-- D_TYPE knows no checksum failure (R171). -/
theorem ne_checksumFail_of_route {cfg : Config} {ty : Byte} {len : Half} {k : Failure}
    (h : route cfg ty len = .fail k) : k ≠ .checksumFail := by
  rintro rfl
  unfold route routeSized routeFixed at h
  split_ifs at h <;> cases h

/-- The failure `k` found at D_TYPE is reported, with the whole declared length and its checksum byte still to skip (R176). -/
def State.reported (s : State) (b : Byte) (k : Failure) : State :=
  { (s.withByte b).emit (k.event b s.dec.len) with
    dec := { s.dec with phase := .dSkip, rem := s.dec.len.setWidth 17 + 1 } }

theorem State.raise_withByte {s : State} {b : Byte} {k : Failure} (hk : k ≠ .checksumFail) :
    (s.withByte b).raise k b = s.reported b k := by
  rw [State.raise_eq, if_neg hk, State.withByte_dec]
  rfl

section
variable {s : State} (hq : s.quiet)
include hq

/-- D_TYPE reports the failure, and D_SKIP takes the byte at the frame-type position as the first of `d_len + 1` (R136,
R176). -/
theorem State.quiet.received_failed_type (hp : s.dec.phase = .dType) {b : Byte} {k : Failure}
    (hr : route s.cfg b s.dec.len = .fail k) :
    ∃ t, s.Received [b]
      { s.dec with
        rem := s.dec.len.setWidth 17, phase := if s.dec.len.setWidth 17 = 0#17 then .dSync else .dSkip }
      [k.event b s.dec.len] t := by
  have ⟨_, _, hev, _⟩ := hq
  have hbyte := hq.withByte_headByte b
  have hreport := DecoderMove.report (s := s.withByte b) k (by simpa using hp) (hq.withByte_avail b)
    (by simpa [hbyte] using hr) (by simpa using hev)
  rw [hbyte, State.raise_withByte (ne_checksumFail_of_route hr)] at hreport
  have hskip : DecoderMove (s.reported b k) ((s.reported b k).popByte false).countSkip :=
    .skip rfl (hq.withByte_avail b) (by show s.dec.len.setWidth 17 + 1 ≠ 0; bv_omega)
  refine ⟨_, hq.received_byte (n := 510) ((hreport.runDecoder_succ 511).trans ((hskip.runDecoder_succ 510).trans ?_))⟩
  simp [State.reported, State.popByte, State.countSkip, State.taken]

/-- The bytes left to skip are taken unexamined, and behind the last one comes D_SYNC (R148). -/
theorem State.quiet.received_skipped {bs : List Byte} (hrem : s.dec.rem.toNat = bs.length)
    (hp : s.dec.phase = if s.dec.rem = 0#17 then .dSync else .dSkip) :
    ∃ t, s.Received bs { s.dec with rem := 0, phase := .dSync } [] t := by
  induction bs generalizing s with
  | nil =>
    have hzero : s.dec.rem = 0#17 := BitVec.eq_of_toNat_eq hrem
    rw [if_pos hzero] at hp
    rw [← hp, show (0 : BitVec 17) = s.dec.rem from hzero.symm]
    exact ⟨s, .nil hq⟩
  | cons b bs ih =>
    rw [List.length_cons] at hrem
    have hne : s.dec.rem ≠ 0#17 := by bv_omega
    rw [if_neg hne] at hp
    have hone : ∃ t, s.Received [b]
        { s.dec with rem := s.dec.rem - 1, phase := if s.dec.rem - 1 = 0 then .dSync else .dSkip } [] t := by
      refine hq.received_of_move (.skip ?_ (hq.withByte_avail b) ?_) ?_
      · simpa using hp
      · simpa using hne
      · simp [State.popByte, State.countSkip, State.taken]
    obtain ⟨t, ht⟩ := hone
    obtain ⟨u, hu⟩ := ih ht.quiet (by rw [ht.dec]; show (s.dec.rem - 1).toNat = _; bv_omega) (by rw [ht.dec]; rfl)
    have hall := ht.append hu
    rw [ht.dec] at hall
    exact ⟨u, hall⟩

/-- The bytes of a frame that D_TYPE does not route: the failure is reported once, and the declared length is skipped. -/
theorem State.quiet.received_decSkip (hp : s.dec.phase = .dSync) {len : Half} {ty : Byte} {rest : List Byte} {k : Failure}
    (hrest : rest.length = len.toNat) (hr : route s.cfg ty len = .fail k) :
    ∃ t, s.Received (Config.start :: (bytes16 len ++ ty :: rest))
      { s.dec with len := len, pos := 0, rem := 0, rxSum := 0, phase := .dSync } [k.event ty len] t := by
  obtain ⟨t, ht⟩ := hq.received_header hp len
  obtain ⟨u, hu⟩ := ht.quiet.received_failed_type (b := ty) (k := k) (by rw [ht.dec]) (by rw [ht.dec, ht.cfg]; exact hr)
  obtain ⟨v, hv⟩ := hu.quiet.received_skipped (bs := rest) (by rw [hu.dec, ht.dec, hrest]; bv_omega) (by rw [hu.dec])
  have hall := (ht.append hu).append hv
  rw [hu.dec, ht.dec] at hall
  exact ⟨v, hall⟩

end

/-- Bytes that are received with one event and leave the DECODER in D_SYNC are the arrival of a frame. -/
theorem State.Received.arrival {s t : State} {bs : List Byte} {d : DecoderState} {e : Event}
    (h : s.Received bs d [e] t) (hp : d.phase = .dSync) : s.arrival t bs.length e := by
  obtain ⟨_, hdrained, _⟩ := h.quiet
  exact ⟨hdrained, h.head, by rw [h.dec, hp], h.port, h.enc, h.cfg, h.sched, h.tick, h.ring⟩

/-- A frame that D_TYPE does not route is reported once and skipped by its declared length (R147, R149, R150, R151). -/
theorem exec_decSkip_arrival {s : State} (hl : s.listening) {len : Half} {ty : Byte} {rest : List Byte} {k : Failure}
    (hrest : rest.length = len.toNat) (hr : route s.cfg ty len = .fail k) :
    ∃ t, exec (.decSkip len ty rest) s = .next t ∧ s.arrival t (len.toNat + 4) (k.event ty len) ∧
      t.dec = { s.dec with len := len, pos := 0, rem := 0, rxSum := 0 } := by
  obtain ⟨hq, hp⟩ := s.listening_iff.1 hl
  obtain ⟨t, ht⟩ := hq.received_decSkip hp hrest hr
  have harrival := ht.arrival rfl
  have hlength : (Config.start :: (bytes16 len ++ ty :: rest)).length = len.toNat + 4 := by simp +arith [hrest]
  rw [hlength] at harrival
  exact ⟨t, ht.run, harrival, by rw [ht.dec, ← hp]⟩

/-! ### Sent frames looped back (R70, R122) -/

/-- The body and the checksum byte of a sent frame sum to `0xFF` (R62, R122). -/
theorem sumBytes_drop_wireFrame (body : List Byte) :
    sumBytes ((wireFrame body (checksumOf body)).drop 3) = Config.chkOk :=
  sumBytes_append_checksumOf body

/-- A received frame of an unknown type is reported as UNKNOWN_TYPE and skipped (R147). -/
theorem step_received_unknownType {s : State} {ty ck : Byte} {os : List Byte} {turns : List Turn} (hl : s.listening)
    (hos : os.length + 1 < 65536)
    (hty : route s.cfg ty (BitVec.ofNat 16 (os.length + 1)) = .fail .unknownType)
    (hs : s.sched = .frame .received (wireFrame (ty :: os) ck) :: turns) :
    ∃ t, step s = .next t ∧
      State.arrival { s with sched := turns } t (os.length + 5) (.unknownType ty (BitVec.ofNat 16 (os.length + 1))) := by
  have hlen : (BitVec.ofNat 16 (os.length + 1)).toNat = os.length + 1 := by bv_omega
  have hrest : (os ++ [ck]).length = (BitVec.ofNat 16 (os.length + 1)).toNat := by simp [hlen]
  have hwf : WellFormed s.cfg (.decSkip (BitVec.ofNat 16 (os.length + 1)) ty (os ++ [ck])) = true := by
    rw [WellFormed, hrest, decodable_of_route_eq_fail hty, beq_self_eq_true]
    rfl
  have hdecode := decode_decSkip hwf []
  have hwire : wireFrame (ty :: os) ck =
      Config.start :: (bytes16 (BitVec.ofNat 16 (os.length + 1)) ++ ty :: (os ++ [ck])) ++ [] := by
    simp [wireFrame]
  rw [hwire] at hs
  have hlu : State.listening { s with sched := turns } := hl
  obtain ⟨t, hexec, harrival, _⟩ := exec_decSkip_arrival hlu hrest hty
  rw [hlen] at harrival
  refine ⟨t, ?_, harrival⟩
  rw [eq_present_of_sched hs]
  exact (step_present_frame_ok (s := { s with sched := turns }) hdecode).trans hexec

/-- Settles O49: neither sent type is one that D_TYPE routes. -/
theorem loopedBackFramesAreUnknown : Obligations.LoopedBackFramesAreUnknown := by
  refine ⟨fun id a64 a16 rad opt payload hlen => ⟨sumBytes_drop_wireFrame _, ?_⟩,
    fun id c1 c2 => ⟨sumBytes_drop_wireFrame _, ?_⟩⟩
  · rintro s u turns rfl hl hs
    have hos : (bodyTx id a64 a16 rad opt payload).tail.length = payload.length + 13 := by
      rw [List.length_tail, length_bodyTx, Nat.add_succ_sub_one]
    have hunknown := step_received_unknownType (os := (bodyTx id a64 a16 rad opt payload).tail) hl (by omega) rfl hs
    rw [hos] at hunknown
    exact hunknown
  · rintro s u turns rfl hl hs
    exact step_received_unknownType (os := [id, c1, c2]) hl (by simp) rfl hs

end Sys2Proof.Machine
end

section
/-! SUPPORT. The DECODER's byte steps as equations (R131 to R148): every move is the row that the phase register
selects, and the fields are those of the spec. -/

namespace Sys2Proof.Machine

/-- The row that the phase register selects makes the DECODER's move. -/
theorem DecoderMove.exec_eq {s t : State} {i : Instr} (h : DecoderMove s t) (hi : decoderInstr s = i) :
    exec i s = .next t := by
  rw [← hi, ← decoderStep_eq_exec, h.decoderStep_eq]

/-! ### The marker and the Length (R131 to R135) -/

/-- Settles O20: in D_SYNC the byte at `head` decides between the two moves. -/
theorem syncPhaseSeeksTheMarker : Obligations.SyncPhaseSeeksTheMarker := fun _ hp ha =>
  ⟨fun hb => (DecoderMove.discard hp ha hb).exec_eq (by rw [decoderInstr, hp]; exact if_neg hb),
    fun hb => (DecoderMove.marker hp ha hb).exec_eq (by rw [decoderInstr, hp]; exact if_pos hb)⟩

theorem be16_zero_eq (h : Byte) : be16 h 0 = BitVec.ofNat 16 (256 * h.toNat) := by
  have hzero : (be16 h 0).toNat = 256 * h.toNat := be16_toNat h 0
  rw [← hzero, BitVec.ofNat_toNat, BitVec.setWidth_eq]

/-- Settles O21: the two moves of the Length, with its bytes by multiplication. -/
theorem lengthStepsConsumeTheirByte : Obligations.LengthStepsConsumeTheirByte := by
  refine fun s ha => ⟨fun hp => ?_, fun hp => ?_⟩
  · rw [← be16_zero_eq]
    exact (DecoderMove.lenHi hp ha).exec_eq (by rw [decoderInstr, hp])
  · rw [BitVec.ofNat_toNat]
    exact (DecoderMove.lenLo hp ha).exec_eq (by rw [decoderInstr, hp])

/-- Settles O22: with two bytes visible the second one still is when the first is popped. -/
theorem lengthIsBigEndian : Obligations.LengthIsBigEndian := by
  intro s hp hvisible
  have ha : s.avail = true := (State.avail_iff s).2 (by bv_omega)
  have ha' : ((s.popByte false).setLenHi s.headByte).avail = true :=
    (State.avail_iff _).2 (show s.head + 1 ≠ s.tailView by bv_omega)
  have hhi := (DecoderMove.lenHi hp ha).exec_eq (by rw [decoderInstr, hp])
  have hlo := (DecoderMove.lenLo (s := ((s.popByte false).setLenHi s.headByte).toDPhase .dLenLo) rfl ha').exec_eq rfl
  refine ⟨_, (congrArg (andThen · (exec .dLenLo)) hhi).trans hlo, ?_, rfl, ?_, rfl, rfl⟩
  · exact (congrArg BitVec.toNat (be16_zero_add _ _)).trans (be16_toNat _ _)
  · show s.head + 1 + 1 = s.head + 2
    bv_omega

/-! ### Routing (R136) -/

theorem routeSized_of_legal {cfg : Config} {overhead : Nat} {len : Half} (hlegal : overhead ≤ len.toNat)
    (hfits : len.toNat - overhead ≤ cfg.rxpMax) (p : DPath) :
    routeSized cfg p overhead len = .path p (len - BitVec.ofNat 16 overhead) := by
  rw [routeSized, if_neg (Nat.not_lt.2 hlegal), if_neg (Nat.not_lt.2 hfits)]

theorem routeSized_of_short {cfg : Config} {overhead : Nat} {len : Half} (h : len.toNat < overhead) (p : DPath) :
    routeSized cfg p overhead len = .fail .badLength :=
  if_pos h

theorem routeSized_of_long {cfg : Config} {overhead : Nat} {len : Half} (hlegal : overhead ≤ len.toNat)
    (h : cfg.rxpMax < len.toNat - overhead) (p : DPath) : routeSized cfg p overhead len = .fail .oversize := by
  rw [routeSized, if_neg (Nat.not_lt.2 hlegal), if_pos h]

theorem routeFixed_of_ne {want : Nat} {len : Half} (h : len.toNat ≠ want) (p : DPath) :
    routeFixed p want len = .fail .badLength :=
  if_neg h

/-- D_TYPE, where it chooses a path (R136). -/
theorem exec_dType_of_path {s : State} {p : DPath} {q : BitVec 16} (hp : s.dec.phase = .dType) (ha : s.avail = true)
    (hr : route s.cfg s.headByte s.dec.len = .path p q) : exec .dType s = .next (s.enterBody p q) :=
  (DecoderMove.path p q hp ha hr).exec_eq (by rw [decoderInstr, hp])

/-- Settles O23: each legal frame's route. -/
theorem typeStepRoutesLegalFrames : Obligations.TypeStepRoutesLegalFrames := by
  refine fun s hp ha => ⟨fun hty hlegal hfits => ?rx, fun hty hlegal hfits => ?atresp, fun hty hlen => ?modem,
    fun hty hlen => ?txstat⟩ <;>
    have hbyte : s.headByte = _ := hty
  case rx => exact exec_dType_of_path hp ha (by rw [hbyte]; exact routeSized_of_legal hlegal hfits .rx)
  case atresp => exact exec_dType_of_path hp ha (by rw [hbyte]; exact routeSized_of_legal hlegal hfits .atresp)
  case modem => exact exec_dType_of_path hp ha (by rw [hbyte, hlen]; rfl)
  case txstat => exact exec_dType_of_path hp ha (by rw [hbyte, hlen]; rfl)

theorem route_unknownType {ty : Byte} (hrx : ty ≠ 0x90) (hatresp : ty ≠ 0x88) (hmodem : ty ≠ 0x8A)
    (htxstat : ty ≠ 0x8B) (cfg : Config) (len : Half) : route cfg ty len = .fail .unknownType :=
  (if_neg hrx).trans <| (if_neg hatresp).trans <| (if_neg hmodem).trans (if_neg htxstat)

theorem route_badLength {ty : Byte} {len : Half}
    (h : ty = 0x90 ∧ len.toNat < 12 ∨ ty = 0x88 ∧ len.toNat < 5 ∨ ty = 0x8A ∧ len.toNat ≠ 2 ∨ ty = 0x8B ∧ len.toNat ≠ 7)
    (cfg : Config) : route cfg ty len = .fail .badLength := by
  rcases h with ⟨rfl, h⟩ | ⟨rfl, h⟩ | ⟨rfl, h⟩ | ⟨rfl, h⟩
  · exact routeSized_of_short h .rx
  · exact routeSized_of_short h .atresp
  · exact routeFixed_of_ne h .modem
  · exact routeFixed_of_ne h .txstat

theorem route_oversize {cfg : Config} {ty : Byte} {len : Half}
    (h : ty = 0x90 ∧ 12 ≤ len.toNat ∧ cfg.rxpMax < len.toNat - 12 ∨
      ty = 0x88 ∧ 5 ≤ len.toNat ∧ cfg.rxpMax < len.toNat - 5) :
    route cfg ty len = .fail .oversize := by
  rcases h with ⟨rfl, hlegal, h⟩ | ⟨rfl, hlegal, h⟩
  · exact routeSized_of_long hlegal h .rx
  · exact routeSized_of_long hlegal h .atresp

/-- D_TYPE, where it reports a failure: the whole declared length and the checksum byte are still to skip (R136,
R176). -/
theorem exec_dType_of_fail {s : State} {k : Failure} (hp : s.dec.phase = .dType) (ha : s.avail = true)
    (he : s.port.evReady = true) (hr : route s.cfg s.headByte s.dec.len = .fail k) :
    exec .dType s = .next { s with
      port := { s.port with events := s.port.events ++ [k.event s.headByte s.dec.len] },
      dec := { s.dec with phase := .dSkip, rem := s.dec.len.setWidth 17 + 1 } } := by
  refine ((DecoderMove.report k hp ha hr he).exec_eq (by rw [decoderInstr, hp])).trans ?_
  rw [State.raise_eq, if_neg (ne_checksumFail_of_route hr)]
  rfl

/-- Settles O24: each failure's route. -/
theorem typeStepReportsAndSkips : Obligations.TypeStepReportsAndSkips := by
  rintro s ty n e hp ha he rfl rfl h
  obtain ⟨k, hroute, rfl⟩ : ∃ k, route s.cfg s.headByte s.dec.len = .fail k ∧ e = k.event s.headByte s.dec.len := by
    rcases h with ⟨hrx, hatresp, hmodem, htxstat, rfl⟩ | ⟨hbad, rfl⟩ | ⟨hover, rfl⟩
    · exact ⟨.unknownType, route_unknownType hrx hatresp hmodem htxstat s.cfg s.dec.len, rfl⟩
    · exact ⟨.badLength, route_badLength hbad s.cfg, rfl⟩
    · exact ⟨.oversize, route_oversize hover, rfl⟩
  refine ⟨_, exec_dType_of_fail hp ha he hroute, ?_, rfl⟩
  show (s.dec.len.setWidth 17 + 1).toNat = _
  bv_omega

/-- The frames that D_TYPE routes are those that one of the four decoders takes (R72, R136). -/
theorem decodable_of_route_eq_path {cfg : Config} {ty : Byte} {len : Half} {p : DPath} {q : BitVec 16}
    (h : route cfg ty len = .path p q) : decodable cfg ty len.toNat = true := by
  have htakes := route_eq_path_takes h
  unfold decodable
  cases p <;> simp only [DPath.rowKind, RowKind.takes, RowKind.lenOk] at htakes <;> simp [htakes]

/-- Settles O25: D_CKSUM asks for a ready host in every case, and D_TYPE where it has a failure to report. -/
theorem reportsWaitForTheHost : Obligations.ReportsWaitForTheHost := by
  intro s he
  refine ⟨if_neg (by simp [he]), fun hskip => ?_⟩
  cases hroute : route s.cfg s.headByte s.dec.len with
  | path p q => exact absurd (decodable_of_route_eq_path hroute) (by rw [State.headByte, hskip]; nofun)
  | fail k => simp [exec, execDType, wait, hroute, he]

/-! ### The body (R137 to R143) -/

/-- D_BODY where the layout has the offset: the byte is popped, summed and stored, and behind the last one comes D_CKSUM
(R137). -/
theorem exec_dBody_of_store {s : State} {d : DecoderState} (hp : s.dec.phase = .dBody) (ha : s.avail = true)
    (hlt : s.dec.pos < s.dec.len)
    (hst : store s.cfg { s.dec with rxSum := s.dec.rxSum + s.headByte } s.dec.pos.toNat s.headByte = some d) :
    exec .dBody s = .next { s with
      head := s.head + 1,
      dec := { d with
        pos := s.dec.pos + 1, phase := if s.dec.pos.toNat + 1 = s.dec.len.toNat then .dCksum else .dBody } } := by
  have hend : s.dec.pos.toNat + 1 = s.dec.len.toNat ↔ s.dec.pos + 1 = s.dec.len := by bv_omega
  have hpos : d.pos = s.dec.pos := by rw [store_frame hst]
  have hlen : d.len = s.dec.len := by rw [store_frame hst]
  simp only [hend]
  rw [← hpos, ← hlen]
  exact (DecoderMove.body d hp ha hlt hst).exec_eq (by rw [decoderInstr, hp])

theorem shiftIn16_eq (r : Half) (b : Byte) : shiftIn16 r b = BitVec.ofNat 16 (r.toNat * 256 % 2 ^ 16 + b.toNat) := by
  apply BitVec.eq_of_toNat_eq
  rw [shiftIn16_toNat, BitVec.toNat_ofNat]
  omega

theorem shiftIn64_eq (r : Addr64) (b : Byte) : shiftIn64 r b = BitVec.ofNat 64 (r.toNat * 256 % 2 ^ 64 + b.toNat) := by
  apply BitVec.eq_of_toNat_eq
  rw [shiftIn64_toNat, BitVec.toNat_ofNat]
  omega

/-- `store(RX, k, b)`, register by register (R138). -/
theorem storeRx_eq {cfg : Config} {k : Nat} (hk : k < cfg.rxpMax + 12) (d : DecoderState) (b : Byte) :
    storeRx cfg d k b = some { d with
      addr64 := if 1 ≤ k ∧ k ≤ 8 then shiftIn64 d.addr64 b else d.addr64,
      addr16 := if k = 9 ∨ k = 10 then shiftIn16 d.addr16 b else d.addr16,
      opts := if k = 11 then b else d.opts,
      rxp := if 12 ≤ k then d.rxp.write (k - 12) b else d.rxp } :=
  match k with
  | 0 | 1 | 2 | 3 | 4 | 5 | 6 | 7 | 8 | 9 | 10 | 11 => rfl
  | i + 12 => by
    have hi : i < cfg.rxpMax := by omega
    simp [storeRx, storeRxp, hi]

/-- `store(ATRESP, k, b)`, register by register (R140). -/
theorem storeAtresp_eq {cfg : Config} {k : Nat} (hk : k < cfg.rxpMax + 5) (d : DecoderState) (b : Byte) :
    storeAtresp cfg d k b = some { d with
      id := if k = 1 then b else d.id, status := if k = 4 then b else d.status,
      rxp := if 5 ≤ k then d.rxp.write (k - 5) b else d.rxp } :=
  match k with
  | 0 | 1 | 2 | 3 | 4 => rfl
  | i + 5 => by
    have hi : i < cfg.rxpMax := by omega
    simp [storeAtresp, storeRxp, hi]

theorem storeModem_eq {k : Nat} (hk : k ≤ 1) (d : DecoderState) (b : Byte) :
    storeModem d k b = some { d with status := if k = 1 then b else d.status } := by
  interval_cases k <;> rfl

/-- `store(TXSTAT, k, b)`, register by register (R143). -/
theorem storeTxstat_eq {k : Nat} (hk : k ≤ 6) (d : DecoderState) (b : Byte) :
    storeTxstat d k b = some { d with
      id := if k = 1 then b else d.id, addr16 := if k = 2 ∨ k = 3 then shiftIn16 d.addr16 b else d.addr16,
      retry := if k = 4 then b else d.retry, delivery := if k = 5 then b else d.delivery,
      discovery := if k = 6 then b else d.discovery } := by
  interval_cases k <;> rfl

/-- A payload byte goes into its slot of `RXP` and into no other (R138, R140). -/
theorem read_payload_write {bound first k : Nat} {m : Memory} (hw : m.wf bound = true) (b : Byte) (i : Nat) :
    (if first ≤ k then m.write (k - first) b else m).read i = if first ≤ k ∧ i = k - first then b else m.read i := by
  by_cases hk : first ≤ k
  · simp [hk, Memory.read_write hw]
  · simp [hk]

/-- Settles O27: what `store` does at this offset of a 0x90 frame. -/
theorem bodyStepStoresRxFields : Obligations.BodyStepStoresRxFields := by
  rintro s b k hp hpath ha hlt hw rfl rfl hk
  refine ⟨_, exec_dBody_of_store hp ha hlt (by rw [store, hpath]; exact storeRx_eq hk _ _),
    read_payload_write hw _, ?_⟩
  simp only [shiftIn64_eq, shiftIn16_eq]
  rfl

/-- Settles O28: what `store` does at this offset of a 0x88 frame. -/
theorem bodyStepStoresAtResponseFields : Obligations.BodyStepStoresAtResponseFields := by
  rintro s b k hp hpath ha hlt hw rfl rfl hk
  exact ⟨_, exec_dBody_of_store hp ha hlt (by rw [store, hpath]; exact storeAtresp_eq hk _ _),
    read_payload_write hw _, rfl⟩

/-- Settles O29: what `store` does at this offset of a 0x8A or a 0x8B frame. -/
theorem bodyStepStoresStatusFields : Obligations.BodyStepStoresStatusFields := by
  rintro s b k hp ha hlt rfl rfl
  refine ⟨fun hpath hk => ?_, fun hpath hk => ?_⟩
  · exact exec_dBody_of_store hp ha hlt (by rw [store, hpath]; exact storeModem_eq hk _ _)
  · rw [← shiftIn16_eq]
    exact exec_dBody_of_store hp ha hlt (by rw [store, hpath]; exact storeTxstat_eq hk _ _)

/-! ### The end of a frame (R145, R146, R148) -/

/-- `d` at another point of its frame: the registers that follow the progress of a frame, and not its fields. -/
def DecoderState.progress (d : DecoderState) (phase : DPhase) (pos : BitVec 16) (sum : Byte) : DecoderState :=
  { d with phase := phase, pos := pos, rxSum := sum }

/-- The event of a path is made of the staged fields, whatever the progress (R145). -/
@[simp] theorem DecoderState.event_progress (d : DecoderState) (phase : DPhase) (pos : BitVec 16) (sum : Byte) :
    (d.progress phase pos sum).event = d.event := by
  unfold DecoderState.event
  rfl

/-- D_CKSUM: the checksum byte is popped and summed, and the sum decides which event is delivered (R145, R146). -/
theorem exec_dCksum_of_ready {s : State} (hp : s.dec.phase = .dCksum) (ha : s.avail = true)
    (he : s.port.evReady = true) :
    exec .dCksum s = .next { s with
      head := s.head + 1,
      dec := { s.dec with rxSum := s.dec.rxSum + s.headByte, phase := .dSync },
      port := { s.port with events := s.port.events ++
        [if s.dec.rxSum + s.headByte = Config.chkOk then s.dec.event
          else .checksumFail s.dec.path.frameType s.dec.len] } } := by
  refine ((DecoderMove.cksum hp ha he).exec_eq (by rw [decoderInstr, hp])).trans ?_
  have hevent : (s.popByte true).dec.event = s.dec.event := s.dec.event_progress _ _ _
  have hsum : (s.popByte true).dec.rxSum = s.dec.rxSum + s.headByte := rfl
  unfold State.finishFrame State.rxSumOk
  rw [hevent, hsum]
  by_cases hok : s.dec.rxSum + s.headByte = Config.chkOk
  · rw [if_pos (beq_iff_eq.2 hok), if_pos hok]
    rfl
  · rw [if_neg (by simpa using hok), if_neg hok]
    rfl

/-- A send has failed when its delivery status is not 0 (R144). -/
theorem sendFailed_eq (delivery : Byte) : (delivery != 0) = decide (delivery ≠ 0) := by
  rw [bne, beq_eq_decide, decide_not]

/-- Settles O31: the sum is right, so the event is the path's, from the staged fields. -/
theorem checksumStepDeliversTheFrame : Obligations.ChecksumStepDeliversTheFrame := by
  rintro s c hp ha he rfl hsum
  have hok : s.dec.rxSum + s.headByte = Config.chkOk := hsum
  have hstep := exec_dCksum_of_ready hp ha he
  rw [if_pos hok, hok] at hstep
  refine ⟨_, s.dec.event, s.dec.rxp.readList 0 s.dec.plen.toNat, hstep, Memory.readList_length _ _ _, fun i hi => ?_,
    fun hpath => ?_, fun hpath => ?_, fun hpath => ?_, fun hpath => ?_, rfl⟩
  · rw [Memory.readList_length] at hi
    rw [Memory.readList_getD _ _ _ _ hi, Nat.zero_add]
  · rw [DecoderState.event, hpath]
  · rw [DecoderState.event, hpath]
  · rw [DecoderState.event, hpath]
  · rw [DecoderState.event, hpath, sendFailed_eq]

/-- Settles O32: the sum is wrong, so the event is CHECKSUM_FAIL with the path's frame type. -/
theorem checksumStepRejectsTheFrame : Obligations.ChecksumStepRejectsTheFrame := by
  rintro s c ty hp ha he rfl hsum hty
  obtain rfl : s.dec.path.frameType = ty := by
    rcases hty with ⟨hpath, rfl⟩ | ⟨hpath, rfl⟩ | ⟨hpath, rfl⟩ | ⟨hpath, rfl⟩ <;> rw [hpath] <;> rfl
  have hstep := exec_dCksum_of_ready hp ha he
  rw [if_neg (show s.dec.rxSum + s.headByte ≠ Config.chkOk from hsum)] at hstep
  exact hstep

/-- Settles O33: D_SKIP counts down to 0. -/
theorem skipStepDiscardsOneByte : Obligations.SkipStepDiscardsOneByte := by
  intro s hp ha hrem
  have hne : s.dec.rem ≠ 0 := by bv_omega
  have hlast : s.dec.rem.toNat = 1 ↔ s.dec.rem - 1 = 0 := by bv_omega
  refine ⟨_, (DecoderMove.skip hp ha hne).exec_eq (by rw [decoderInstr, hp]), ?_, ?_⟩
  · show (s.dec.rem - 1).toNat = _
    bv_omega
  · simp only [hlast]
    rfl

end Sys2Proof.Machine
end

section
/-! SUPPORT. The reference decoders of R155: they give back the operands of the two sent frames. -/

namespace Sys2Proof

theorem length_wireFrame (body : List Byte) (ck : Byte) : (wireFrame body ck).length = body.length + 4 := by
  simp +arith [wireFrame]

/-- The Length bytes of a frame count its body (R60, R155). -/
theorem refLen_wireFrame {body : List Byte} (h : body.length < 65536) (ck : Byte) :
    refLen (wireFrame body ck) = body.length := by
  have hlen : (BitVec.ofNat 16 body.length).toNat = body.length := Nat.mod_eq_of_lt h
  calc refLen (wireFrame body ck)
      = (be16 (byteOf16 (BitVec.ofNat 16 body.length) 0) (byteOf16 (BitVec.ofNat 16 body.length) 1)).toNat :=
        (be16_toNat _ _).symm
    _ = body.length := by rw [be16_byteOf16, hlen]

/-- A frame with the checksum byte of its body passes the sum test (R62, R155). -/
theorem refSumOk_wireFrame (body : List Byte) : refSumOk (wireFrame body (checksumOf body)) = true :=
  beq_iff_eq.2 (Machine.sumBytes_drop_wireFrame body)

theorem refDecTx_encTxFrame (id : Byte) (a64 : Addr64) (a16 : Half) (rad opt : Byte) {payload : List Byte}
    (h : payload.length ≤ 241) :
    refDecTx (encTxFrame id a64 a16 rad opt payload) = some (.encTx id a64 a16 rad opt payload) := by
  have hbody := Machine.length_bodyTx id a64 a16 rad opt payload
  have hlen : refLen (encTxFrame id a64 a16 rad opt payload) = payload.length + 14 :=
    (refLen_wireFrame (by omega) _).trans hbody
  have hwhole : (encTxFrame id a64 a16 rad opt payload).length = payload.length + 14 + 4 := by
    rw [encTxFrame, length_wireFrame, hbody]
  rw [refDecTx, hlen, if_pos ⟨rfl, hwhole, Nat.le_add_left _ _, rfl, refSumOk_wireFrame _⟩]
  simp [encTxFrame, wireFrame, bodyTx, bytes64, bytes16]

theorem refDecAt_encAtFrame (id c1 c2 : Byte) : refDecAt (encAtFrame id c1 c2) = some (.encAt id c1 c2) := by
  have hlen : refLen (encAtFrame id c1 c2) = 4 := refLen_wireFrame (by simp [bodyAt]) _
  rw [refDecAt, hlen, if_pos ⟨rfl, rfl, rfl, rfl, refSumOk_wireFrame _⟩]
  rfl

/-- Settles O54: both frames pass the tests, and each operand stands at its offset. -/
theorem referenceDecodersRoundTrip : Obligations.ReferenceDecodersRoundTrip :=
  ⟨fun id a64 a16 rad opt _ h => refDecTx_encTxFrame id a64 a16 rad opt h, refDecAt_encAtFrame⟩

end Sys2Proof
end

section
/-! SUPPORT. The DECODER as an automaton on bytes (R131 to R148): what it does with one visible byte depends on its own
registers and the parameters alone, so what it does with a string can be said without the ring. The ring comes back in
two ways: byte by byte as a frame arrives, and from a ring that holds the whole string. -/

namespace Sys2Proof.Machine

/-! ### One byte -/

/-- `d.TakesByte cfg b d' es`: with the byte `b` visible and a ready host, the DECODER at `d` pops it, ends at `d'` and
delivers the events `es`. D_TYPE does not pop; the step after it takes the byte it has peeked at (R136). -/
inductive DecoderState.TakesByte (cfg : Config) (d : DecoderState) (b : Byte) : DecoderState → List Event → Prop where
  | discard : d.phase = .dSync → b ≠ Config.start → TakesByte cfg d b d []
  | marker : d.phase = .dSync → b = Config.start → TakesByte cfg d b { d with phase := .dLenHi } []
  | lenHi : d.phase = .dLenHi → TakesByte cfg d b { d with len := be16 b 0, phase := .dLenLo } []
  | lenLo : d.phase = .dLenLo →
      TakesByte cfg d b ({ d with len := d.len + b.setWidth 16 }.progress .dType 0 0) []
  | path (p : DPath) (q : BitVec 16) : d.phase = .dType → route cfg b d.len = .path p q →
      TakesByte cfg d b
        ({ d with path := p, plen := q }.progress (if 1 = d.len then .dCksum else .dBody) 1 (d.rxSum + b)) []
  | report (k : Failure) : d.phase = .dType → route cfg b d.len = .fail k →
      TakesByte cfg d b
        { d with rem := d.len.setWidth 17, phase := if d.len.setWidth 17 = 0#17 then .dSync else .dSkip }
        [k.event b d.len]
  | body (d' : DecoderState) : d.phase = .dBody → d.pos < d.len → store cfg d d.pos.toNat b = some d' →
      TakesByte cfg d b (d'.progress (if d.pos + 1 = d.len then .dCksum else .dBody) (d.pos + 1) (d.rxSum + b)) []
  | cksum : d.phase = .dCksum →
      TakesByte cfg d b { d with rxSum := d.rxSum + b, phase := .dSync }
        [if d.rxSum + b = Config.chkOk then d.event else .checksumFail d.path.frameType d.len]
  | skip : d.phase = .dSkip → d.rem ≠ 0 →
      TakesByte cfg d b { d with rem := d.rem - 1, phase := if d.rem - 1 = 0 then .dSync else .dSkip } []

/-- `store` neither reads nor writes the progress of the frame (R137). -/
theorem store_progress (cfg : Config) (d : DecoderState) (k : Nat) (b : Byte) (phase : DPhase) (pos : BitVec 16)
    (sum : Byte) :
    store cfg (d.progress phase pos sum) k b = (store cfg d k b).map (·.progress phase pos sum) := by
  have hpath : (d.progress phase pos sum).path = d.path := rfl
  unfold store
  rw [hpath]
  cases d.path with
  | rx => simp only [storeRx, storeRxp]; split_ifs <;> rfl
  | atresp => simp only [storeAtresp, storeRxp]; split_ifs <;> rfl
  | modem => simp only [storeModem]; split_ifs <;> rfl
  | txstat => simp only [storeTxstat]; split_ifs <;> rfl

/-- The frame type at offset 0 goes into no register (R138, R140, R142, R143). -/
theorem store_zero (cfg : Config) (d : DecoderState) (b : Byte) : store cfg d 0 b = some d := by
  unfold store
  split <;> rfl

theorem State.taken_nil (s : State) (d : DecoderState) : s.taken d [] = { s with head := s.head + 1, dec := d } := by
  simp [State.taken]

/-- A single move that pops the visible byte. -/
theorem DecoderMove.run_taken {s u : State} {d : DecoderState} {es : List Event} (h : DecoderMove s u)
    (hu : u = s.taken d es) : ∃ j ≤ 1, ∀ n, runDecoder (n + 1 + j) s = runDecoder n (s.taken d es) :=
  ⟨0, Nat.zero_le _, fun n => hu ▸ h.runDecoder_succ n⟩

/-- D_BODY's move, from what `store` does with the byte. -/
theorem DecoderMove.of_store {s : State} {d : DecoderState} (hp : s.dec.phase = .dBody) (ha : s.avail = true)
    (hlt : s.dec.pos < s.dec.len) (hst : store s.cfg s.dec s.dec.pos.toNat s.headByte = some d) :
    DecoderMove s (s.taken (d.progress (if s.dec.pos + 1 = s.dec.len then .dCksum else .dBody) (s.dec.pos + 1)
      (s.dec.rxSum + s.headByte)) []) := by
  have hfed : store s.cfg (s.popByte true).dec s.dec.pos.toNat s.headByte =
      some (d.progress s.dec.phase s.dec.pos (s.dec.rxSum + s.headByte)) :=
    (store_progress ..).trans (by rw [hst]; rfl)
  have hlen : d.len = s.dec.len := by rw [store_frame hst]
  rw [State.taken_nil, ← hlen]
  exact DecoderMove.body _ hp ha hlt hfed

/-- What the automaton does with the visible byte, RUN does in one step or in two. -/
theorem DecoderState.TakesByte.run {s : State} {d : DecoderState} {es : List Event}
    (h : s.dec.TakesByte s.cfg s.headByte d es) (ha : s.avail = true) (he : s.port.evReady = true) :
    ∃ j ≤ 1, ∀ n, runDecoder (n + 1 + j) s = runDecoder n (s.taken d es) := by
  cases h with
  | discard hp hb => exact (DecoderMove.discard hp ha hb).run_taken (by simp [State.popByte, State.taken])
  | marker hp hb =>
    exact (DecoderMove.marker hp ha hb).run_taken (by simp [State.popByte, State.toDPhase, State.taken])
  | lenHi hp =>
    exact (DecoderMove.lenHi hp ha).run_taken (by simp [State.popByte, State.setLenHi, State.toDPhase, State.taken])
  | lenLo hp =>
    exact (DecoderMove.lenLo hp ha).run_taken (by
      simp [State.popByte, State.addLenLo, State.clearRxSum, State.toDPhase, State.taken, DecoderState.progress])
  | path p q hp hr =>
    have hlen : (0 : BitVec 16) < s.dec.len := len_pos_of_route hr
    have henter := DecoderMove.path p q hp ha hr
    have hbody := DecoderMove.of_store (s := s.enterBody p q) rfl ha hlen (store_zero _ _ _)
    refine ⟨1, le_rfl, fun n => (henter.runDecoder_succ (n + 1)).trans ((hbody.runDecoder_succ n).trans ?_)⟩
    rfl
  | report k hp hr =>
    have hreport := DecoderMove.report k hp ha hr he
    rw [State.raise_eq, if_neg (ne_checksumFail_of_route hr)] at hreport
    have hskip := DecoderMove.skip
      (s := { s.emit (k.event s.headByte s.dec.len) with
        dec := { s.dec with phase := .dSkip, rem := s.dec.len.setWidth 17 + 1 } })
      rfl ha (by show s.dec.len.setWidth 17 + 1 ≠ 0; bv_omega)
    refine ⟨1, le_rfl, fun n => (hreport.runDecoder_succ (n + 1)).trans ((hskip.runDecoder_succ n).trans ?_)⟩
    simp [State.emit, State.popByte, State.countSkip, State.taken]
  | body d' hp hlt hst => exact (DecoderMove.of_store hp ha hlt hst).run_taken rfl
  | cksum hp =>
    have hexec := exec_dCksum_of_ready hp ha he
    have hmove := decoderStep_move ((decoderStep_eq_exec s).trans (by rw [decoderInstr, hp]; exact hexec))
    exact hmove.run_taken rfl
  | skip hp hne =>
    exact (DecoderMove.skip hp ha hne).run_taken (by simp [State.popByte, State.countSkip, State.taken])

/-! ### A string of bytes -/

/-- `d.Reads cfg bs d' es`: the DECODER at `d` takes the bytes `bs` one by one, ends at `d'` and delivers the events
`es`. -/
inductive DecoderState.Reads (cfg : Config) : DecoderState → List Byte → DecoderState → List Event → Prop where
  | nil (d : DecoderState) : Reads cfg d [] d []
  | cons {d d' d'' : DecoderState} {b : Byte} {bs : List Byte} {es es' : List Event} :
      d.TakesByte cfg b d' es → Reads cfg d' bs d'' es' → Reads cfg d (b :: bs) d'' (es ++ es')

section
variable {cfg : Config} {d d' d'' : DecoderState} {bs cs : List Byte} {es es' : List Event}

theorem DecoderState.TakesByte.reads {b : Byte} (h : d.TakesByte cfg b d' es) : d.Reads cfg [b] d' es := by
  simpa using DecoderState.Reads.cons h (.nil d')

theorem DecoderState.Reads.append (h : d.Reads cfg bs d' es) (h' : d'.Reads cfg cs d'' es') :
    d.Reads cfg (bs ++ cs) d'' (es ++ es') := by
  induction h with
  | nil => exact h'
  | cons hb _ ih => rw [List.append_assoc]; exact .cons hb (ih h')

end

/-- Bytes that arrive at a waiting block are taken as the automaton takes them. -/
theorem State.quiet.received_reads {s : State} {bs : List Byte} {d : DecoderState} {es : List Event} (hq : s.quiet)
    (h : s.dec.Reads s.cfg bs d es) : ∃ t, s.Received bs d es t := by
  induction bs generalizing s es with
  | nil => cases h; exact ⟨s, .nil hq⟩
  | cons b bs ih =>
    cases h with
    | @cons _ d' _ _ _ es₁ es₂ hb hbs =>
      have ⟨_, _, hev, _⟩ := hq
      have htakes : (s.withByte b).dec.TakesByte (s.withByte b).cfg (s.withByte b).headByte d' es₁ := by
        rwa [State.withByte_dec, State.withByte_cfg, hq.withByte_headByte]
      obtain ⟨j, hj, hrun⟩ := htakes.run (hq.withByte_avail b) (by rwa [State.withByte_port])
      have hfuel : runFuel = (511 - j) + 1 + j := by unfold runFuel; omega
      have ht := hq.received_byte (hfuel ▸ hrun (511 - j))
      obtain ⟨u, hu⟩ := ih ht.quiet (by rwa [ht.dec, ht.cfg])
      exact ⟨u, ht.append hu⟩

/-! ### The bytes of a body (R137 to R143) -/

/-- The bytes of a body stored one after another from offset `k` on. -/
def DecoderState.storeFrom (cfg : Config) (d : DecoderState) : Nat → List Byte → Option DecoderState
  | _, [] => some d
  | k, b :: bs => (store cfg d k b).bind fun d' => DecoderState.storeFrom cfg d' (k + 1) bs

theorem DecoderState.storeFrom_cons_of_store {cfg : Config} {d d' : DecoderState} {k : Nat} {b : Byte}
    (h : store cfg d k b = some d') (bs : List Byte) : d.storeFrom cfg k (b :: bs) = d'.storeFrom cfg (k + 1) bs := by
  rw [DecoderState.storeFrom, h, Option.bind_some]

theorem DecoderState.storeFrom_cons_eq_some {cfg : Config} {d d' : DecoderState} {k : Nat} {b : Byte} {bs : List Byte} :
    d.storeFrom cfg k (b :: bs) = some d' ↔ ∃ d₁, store cfg d k b = some d₁ ∧ d₁.storeFrom cfg (k + 1) bs = some d' :=
  Option.bind_eq_some_iff

theorem DecoderState.storeFrom_progress {cfg : Config} {d d' : DecoderState} {k : Nat} {bs : List Byte}
    (h : d.storeFrom cfg k bs = some d') (phase : DPhase) (pos : BitVec 16) (sum : Byte) :
    (d.progress phase pos sum).storeFrom cfg k bs = some (d'.progress phase pos sum) := by
  induction bs generalizing d k with
  | nil => cases h; rfl
  | cons b bs ih =>
    obtain ⟨d₁, hb, hbs⟩ := storeFrom_cons_eq_some.1 h
    exact (storeFrom_cons_of_store (by rw [store_progress, hb]; rfl) bs).trans (ih hbs)

/-- A path's layout has a place for every byte up to its Length (R72, R136). -/
theorem DecoderState.PathInv.exists_storeFrom {cfg : Config} {d : DecoderState} {k : Nat} {bs : List Byte}
    (h : d.PathInv cfg) (hk : k + bs.length ≤ d.len.toNat) : ∃ d', d.storeFrom cfg k bs = some d' := by
  induction bs generalizing d k with
  | nil => exact ⟨d, rfl⟩
  | cons b bs ih =>
    rw [List.length_cons] at hk
    obtain ⟨d₁, hb⟩ := Option.ne_none_iff_exists'.1 fun hnone =>
      h.inside (k := k) (by omega) (store_eq_none_iff (b := b).1 hnone)
    rw [storeFrom_cons_of_store hb]
    have hkeep := store_frame hb
    refine ih ?_ ?_ <;> rw [hkeep]
    · exact h
    · show k + 1 + bs.length ≤ d.len.toNat
      omega

/-- `d` with the fields of a whole body in its result registers: the layouts of R138, R140, R142 and R143. -/
def DecoderState.withBody (d : DecoderState) (body : List Byte) : DecoderState :=
  match d.path with
  | .rx =>
    { d with
      addr64 := be64 (body.getD 1 0) (body.getD 2 0) (body.getD 3 0) (body.getD 4 0) (body.getD 5 0) (body.getD 6 0)
        (body.getD 7 0) (body.getD 8 0)
      addr16 := be16 (body.getD 9 0) (body.getD 10 0), opts := body.getD 11 0
      rxp := d.rxp.writeList 0 (body.drop 12) }
  | .atresp =>
    { d with id := body.getD 1 0, status := body.getD 4 0, rxp := d.rxp.writeList 0 (body.drop 5) }
  | .modem => { d with status := body.getD 1 0 }
  | .txstat =>
    { d with
      id := body.getD 1 0, addr16 := be16 (body.getD 2 0) (body.getD 3 0), retry := body.getD 4 0
      delivery := body.getD 5 0, discovery := body.getD 6 0 }

/-- Behind the fixed fields the bytes go into `RXP`, slot after slot (R138, R140). -/
theorem DecoderState.storeFrom_payload {cfg : Config} {d : DecoderState} {first a : Nat} {data : List Byte}
    (hst : ∀ (m : Memory) (i : Nat) (b : Byte), i < cfg.rxpMax →
      store cfg { d with rxp := m } (i + first) b = some { d with rxp := m.write i b })
    (hfits : a + data.length ≤ cfg.rxpMax) (m : Memory) :
    DecoderState.storeFrom cfg { d with rxp := m } (a + first) data =
      some { d with rxp := m.writeList a data } := by
  induction data generalizing a m with
  | nil => rfl
  | cons b data ih =>
    rw [List.length_cons] at hfits
    rw [storeFrom_cons_of_store (hst m a b (by omega)), Nat.add_right_comm]
    exact ih (by omega) (m.write a b)

/-- A list by its first `n` bytes and the rest. -/
theorem getD_append_drop {body : List Byte} {n : Nat} (h : n ≤ body.length) :
    (List.range n).map (body.getD · 0) ++ body.drop n = body := by
  have htake : (List.range n).map (body.getD · 0) = body.take n := by
    refine List.ext_getElem (by simpa using h) fun i hi _ => ?_
    have hlt : i < body.length := by simp at hi; omega
    simp [hlt]
  rw [htake, List.take_append_drop]

end Sys2Proof.Machine
end

section
/-! SUPPORT. Whole frames through the automaton (R132 to R151): the header, a body stored field by field, the checksum
byte; and received frames as one operation, the four that are decoded and those that are skipped. -/

namespace Sys2Proof.Machine

/-! ### A whole body is its fields (R138, R140, R142, R143) -/

section
variable {cfg : Config} {d : DecoderState} {data : List Byte}

theorem DecoderState.storeFrom_rx (hpath : d.path = .rx) (hfits : data.length ≤ cfg.rxpMax)
    (ty b0 b1 b2 b3 b4 b5 b6 b7 n0 n1 opt : Byte) :
    d.storeFrom cfg 0 (ty :: b0 :: b1 :: b2 :: b3 :: b4 :: b5 :: b6 :: b7 :: n0 :: n1 :: opt :: data) =
      some { d with
        addr64 := be64 b0 b1 b2 b3 b4 b5 b6 b7, addr16 := be16 n0 n1, opts := opt, rxp := d.rxp.writeList 0 data } := by
  have haddr64 := foldl_shiftIn64 d.addr64 b0 b1 b2 b3 b4 b5 b6 b7
  have haddr16 := shiftIn16_shiftIn16 d.addr16 n0 n1
  have hpayload := DecoderState.storeFrom_payload (cfg := cfg) (first := 12) (a := 0) (data := data)
    (d := { d with addr64 := be64 b0 b1 b2 b3 b4 b5 b6 b7, addr16 := be16 n0 n1, opts := opt })
    (fun m i b hi => by simp [store, hpath, storeRx, storeRxp, hi]) (by simpa using hfits) d.rxp
  rw [← haddr64, ← haddr16] at hpayload ⊢
  simpa [DecoderState.storeFrom, store, hpath, storeRx] using hpayload

theorem DecoderState.storeFrom_atresp (hpath : d.path = .atresp) (hfits : data.length ≤ cfg.rxpMax)
    (ty id c1 c2 status : Byte) :
    d.storeFrom cfg 0 (ty :: id :: c1 :: c2 :: status :: data) =
      some { d with id := id, status := status, rxp := d.rxp.writeList 0 data } := by
  have hpayload := DecoderState.storeFrom_payload (cfg := cfg) (first := 5) (a := 0) (data := data)
    (d := { d with id := id, status := status })
    (fun m i b hi => by simp [store, hpath, storeAtresp, storeRxp, hi]) (by simpa using hfits) d.rxp
  simpa [DecoderState.storeFrom, store, hpath, storeAtresp] using hpayload

theorem DecoderState.storeFrom_modem (hpath : d.path = .modem) (ty status : Byte) :
    d.storeFrom cfg 0 [ty, status] = some { d with status := status } := by
  simp [DecoderState.storeFrom, store, hpath, storeModem]

theorem DecoderState.storeFrom_txstat (hpath : d.path = .txstat) (ty id n0 n1 retry delivery discovery : Byte) :
    d.storeFrom cfg 0 [ty, id, n0, n1, retry, delivery, discovery] =
      some { d with
        id := id, addr16 := be16 n0 n1, retry := retry, delivery := delivery, discovery := discovery } := by
  rw [← shiftIn16_shiftIn16 d.addr16 n0 n1]
  simp [DecoderState.storeFrom, store, hpath, storeTxstat]

/-- The bytes of a whole body, stored one after another, leave its fields in the result registers. -/
theorem DecoderState.PathInv.storeFrom_eq (h : d.PathInv cfg) {body : List Byte} (hlen : body.length = d.len.toNat) :
    d.storeFrom cfg 0 body = some (d.withBody body) := by
  cases hpath : d.path <;> simp only [DecoderState.PathInv, hpath] at h
  case rx =>
    obtain ⟨hlegal, hplen, hfits⟩ := h
    have hdata : (body.drop 12).length ≤ cfg.rxpMax := by rw [List.length_drop]; omega
    refine (congrArg _ (getD_append_drop (n := 12) (by omega)).symm).trans ((storeFrom_rx hpath hdata ..).trans ?_)
    simp only [withBody, hpath]
  case atresp =>
    obtain ⟨hlegal, hplen, hfits⟩ := h
    have hdata : (body.drop 5).length ≤ cfg.rxpMax := by rw [List.length_drop]; omega
    refine (congrArg _ (getD_append_drop (n := 5) (by omega)).symm).trans ((storeFrom_atresp hpath hdata ..).trans ?_)
    simp only [withBody, hpath]
  case modem =>
    have hend : body.drop 2 = [] := List.drop_eq_nil_of_le (by omega)
    refine (congrArg _ (getD_append_drop (n := 2) (by omega)).symm).trans ?_
    rw [hend]
    refine (storeFrom_modem hpath ..).trans ?_
    simp only [withBody, hpath]
  case txstat =>
    have hend : body.drop 7 = [] := List.drop_eq_nil_of_le (by omega)
    refine (congrArg _ (getD_append_drop (n := 7) (by omega)).symm).trans ?_
    rw [hend]
    refine (storeFrom_txstat hpath ..).trans ?_
    simp only [withBody, hpath]

end

theorem DecoderState.withBody_path (d : DecoderState) (body : List Byte) : (d.withBody body).path = d.path := by
  unfold DecoderState.withBody
  split <;> rfl

theorem DecoderState.withBody_len (d : DecoderState) (body : List Byte) : (d.withBody body).len = d.len := by
  unfold DecoderState.withBody
  split <;> rfl

theorem readList_writeList {bound a : Nat} {m : Memory} {bs : List Byte} (hw : m.wf bound = true)
    (h : a + bs.length ≤ bound) : (m.writeList a bs).readList a bs.length = bs := by
  refine List.ext_getElem (Memory.readList_length _ _ _) fun i hi hi' => ?_
  have hread := Memory.readList_getD (m.writeList a bs) bs.length a i hi'
  rw [List.getD_eq_getElem _ _ hi] at hread
  rw [hread, Memory.read_writeList _ hw h, if_pos (by omega), Nat.add_sub_cancel_left, List.getD_eq_getElem _ _ hi']

/-- The event of the fields of a body is the event of the body in the closed form (R139, R141, R142, R143, R152). -/
theorem DecoderState.PathInv.event_withBody {cfg : Config} {d : DecoderState} (h : d.PathInv cfg)
    (hw : d.rxp.wf cfg.rxpMax = true) {body : List Byte} (hlen : body.length = d.len.toNat) :
    (d.withBody body).event = bodyEvent d.path body := by
  cases hpath : d.path <;> simp only [DecoderState.PathInv, hpath] at h <;>
    simp only [DecoderState.withBody, DecoderState.event, bodyEvent, hpath]
  case rx =>
    obtain ⟨hlegal, hplen, hfits⟩ := h
    have hdata : (body.drop 12).length = d.plen.toNat := by rw [List.length_drop]; omega
    rw [← hdata, readList_writeList hw (by omega)]
  case atresp =>
    obtain ⟨hlegal, hplen, hfits⟩ := h
    have hdata : (body.drop 5).length = d.plen.toNat := by rw [List.length_drop]; omega
    rw [← hdata, readList_writeList hw (by omega)]

/-! ### The parts of a frame -/

/-- The marker and the Length leave the DECODER in D_TYPE with that Length and a cleared sum (R132 to R135). -/
theorem DecoderState.reads_header {d : DecoderState} (hp : d.phase = .dSync) (cfg : Config) (hi lo : Byte) :
    d.Reads cfg [Config.start, hi, lo] ({ d with len := be16 hi lo }.progress .dType 0 0) [] := by
  rw [← be16_zero_add]
  exact .cons (.marker hp rfl) (.cons (.lenHi rfl) (.cons (.lenLo rfl) (.nil _)))

/-- D_SKIP takes bytes unexamined as long as there are some left to skip (R148). -/
theorem DecoderState.reads_skip {cfg : Config} {d : DecoderState} {bs : List Byte}
    (hp : d.phase = if d.rem = 0#17 then .dSync else .dSkip) (hle : bs.length ≤ d.rem.toNat) :
    d.Reads cfg bs
      { d with
        rem := d.rem - BitVec.ofNat 17 bs.length
        phase := if d.rem - BitVec.ofNat 17 bs.length = 0#17 then .dSync else .dSkip } [] := by
  induction bs generalizing d with
  | nil => simpa [← hp] using DecoderState.Reads.nil d
  | cons b bs ih =>
    rw [List.length_cons] at hle
    have hne : d.rem ≠ 0#17 := by bv_omega
    have hrem : d.rem - BitVec.ofNat 17 (bs.length + 1) = d.rem - 1 - BitVec.ofNat 17 bs.length := by bv_omega
    rw [List.length_cons, hrem]
    rw [if_neg hne] at hp
    exact .cons (.skip hp hne) (ih rfl (show bs.length ≤ (d.rem - 1).toNat by bv_omega))

/-- D_BODY takes the bytes of the body, sums them and stores them, and behind the last one comes D_CKSUM (R137). -/
theorem DecoderState.reads_body {cfg : Config} {d d' : DecoderState} {bs : List Byte}
    (hp : d.phase = if d.pos = d.len then .dCksum else .dBody) (hle : d.pos.toNat + bs.length ≤ d.len.toNat)
    (hst : d.storeFrom cfg d.pos.toNat bs = some d') :
    d.Reads cfg bs
      (d'.progress (if d.pos + BitVec.ofNat 16 bs.length = d.len then .dCksum else .dBody)
        (d.pos + BitVec.ofNat 16 bs.length) (d.rxSum + sumBytes bs)) [] := by
  induction bs generalizing d d' with
  | nil =>
    cases hst
    simpa [DecoderState.progress, sumBytes, ← hp] using DecoderState.Reads.nil d
  | cons b bs ih =>
    rw [List.length_cons] at hle
    obtain ⟨d₁, hb, hbs⟩ := storeFrom_cons_eq_some.1 hst
    have hlen : d₁.len = d.len := by rw [store_frame hb]
    have hlt : d.pos < d.len := by bv_omega
    have hne : d.pos ≠ d.len := by bv_omega
    have hsucc : (d.pos + 1).toNat = d.pos.toNat + 1 := by bv_omega
    have hpos : d.pos + BitVec.ofNat 16 (bs.length + 1) = d.pos + 1 + BitVec.ofNat 16 bs.length := by bv_omega
    rw [if_neg hne] at hp
    have hone := TakesByte.body d₁ hp hlt hb
    have hrest := ih (d := d₁.progress (if d.pos + 1 = d.len then .dCksum else .dBody) (d.pos + 1) (d.rxSum + b))
      (d' := d'.progress (if d.pos + 1 = d.len then .dCksum else .dBody) (d.pos + 1) (d.rxSum + b))
      (by rw [← hlen]; rfl) (by show (d.pos + 1).toNat + bs.length ≤ d₁.len.toNat; rw [hlen, hsucc]; omega)
      (by
        show DecoderState.storeFrom cfg _ (d.pos + 1).toNat bs = _
        rw [hsucc]
        exact storeFrom_progress hbs _ _ _)
    rw [List.length_cons, hpos, sumBytes, ← BitVec.add_assoc, ← hlen]
    exact .cons hone hrest

/-- A path is chosen for its own frame type (R136, R145). -/
theorem frameType_of_route {cfg : Config} {ty : Byte} {len : Half} {p : DPath} {q : BitVec 16}
    (h : route cfg ty len = .path p q) : p.frameType = ty := by
  unfold route at h
  split_ifs at h with hty hty hty hty
  case pos | pos => obtain ⟨rfl, _⟩ := routeSized_eq_path h; exact hty.symm
  case pos | pos => obtain ⟨rfl, _⟩ := routeFixed_eq_path h; exact hty.symm

/-- D_CKSUM sums the checksum byte, and the sum decides about the event (R145, R146). -/
theorem DecoderState.reads_cksum {d : DecoderState} {len : Half} {ty : Byte} (cfg : Config) (hlen : d.len = len)
    (hty : d.path.frameType = ty) (sum ck : Byte) :
    (d.progress .dCksum len sum).Reads cfg [ck] (d.progress .dSync len (sum + ck))
      [if sum + ck = Config.chkOk then d.event else .checksumFail ty len] := by
  have hck := TakesByte.cksum (cfg := cfg) (d := d.progress .dCksum len sum) (b := ck) rfl
  subst hlen hty
  rw [event_progress] at hck
  exact hck.reads

/-! ### Frames (R136, R145, R147) -/

/-- `d` with the Length of a frame and the path and payload length that D_TYPE chose for it (R136). -/
def DecoderState.routed (d : DecoderState) (len : Half) (p : DPath) (q : BitVec 16) : DecoderState :=
  { d with len := len, path := p, plen := q }

section
variable {cfg : Config} {d : DecoderState} {hi lo ty : Byte} {os : List Byte} (hp : d.phase = .dSync)
include hp

/-- A frame of a decode path, or its front: the header and the bytes of the body so far, stored and summed. -/
theorem DecoderState.reads_routed {d' : DecoderState} {p : DPath} {q : BitVec 16}
    (hr : route cfg ty (be16 hi lo) = .path p q) (hle : os.length + 1 ≤ (be16 hi lo).toNat)
    (hst : (d.routed (be16 hi lo) p q).storeFrom cfg 0 (ty :: os) = some d') :
    d.Reads cfg (Config.start :: hi :: lo :: ty :: os)
      (d'.progress (if BitVec.ofNat 16 (os.length + 1) = be16 hi lo then .dCksum else .dBody)
        (BitVec.ofNat 16 (os.length + 1)) (sumBytes (ty :: os))) [] := by
  have htype := TakesByte.path (cfg := cfg) (d := { d with len := be16 hi lo }.progress .dType 0 0) p q rfl hr
  rw [storeFrom_cons_of_store (store_zero ..)] at hst
  have hbody := DecoderState.reads_body (cfg := cfg) (bs := os)
    (d := (d.routed (be16 hi lo) p q).progress (if 1 = be16 hi lo then .dCksum else .dBody) 1 (0 + ty))
    rfl (by show 1 + os.length ≤ (be16 hi lo).toNat; omega) (storeFrom_progress hst _ _ _)
  have hpos : BitVec.ofNat 16 (os.length + 1) = 1 + BitVec.ofNat 16 os.length := by bv_omega
  have hsum : sumBytes (ty :: os) = 0 + ty + sumBytes os := by simp [sumBytes]
  rw [hpos, hsum]
  exact ((DecoderState.reads_header hp cfg hi lo).append htype.reads).append hbody

/-- A whole frame of a decode path: its fields are staged, and the sum with the checksum byte decides about its event
(R145, R146). -/
theorem DecoderState.reads_frame {p : DPath} {q : BitVec 16} (hr : route cfg ty (be16 hi lo) = .path p q)
    (hlen : os.length + 1 = (be16 hi lo).toNat) (ck : Byte) :
    d.Reads cfg (Config.start :: hi :: lo :: ty :: (os ++ [ck]))
      (((d.routed (be16 hi lo) p q).withBody (ty :: os)).progress .dSync (be16 hi lo) (sumBytes (ty :: (os ++ [ck]))))
      [if sumBytes (ty :: (os ++ [ck])) = Config.chkOk then ((d.routed (be16 hi lo) p q).withBody (ty :: os)).event
        else .checksumFail ty (be16 hi lo)] := by
  have hinv : (d.routed (be16 hi lo) p q).PathInv cfg := pathInv_of_route hr
  have hbody := DecoderState.reads_routed hp hr hlen.le (hinv.storeFrom_eq hlen)
  have hpos : BitVec.ofNat 16 (os.length + 1) = be16 hi lo := by rw [hlen, BitVec.ofNat_toNat, BitVec.setWidth_eq]
  rw [hpos, if_pos rfl] at hbody
  have hsum : sumBytes (ty :: (os ++ [ck])) = sumBytes (ty :: os) + ck := by
    simp [sumBytes, sumBytes_append, BitVec.add_assoc]
  have hfail : ((d.routed (be16 hi lo) p q).withBody (ty :: os)).path.frameType = ty := by
    rw [withBody_path]
    exact frameType_of_route hr
  rw [hsum]
  exact hbody.append (DecoderState.reads_cksum _ (withBody_len _ _) hfail _ ck)

end

/-! ### Frames that arrive -/

/-- The bytes of a frame of a decode path arrive at a listening block: its fields are staged, and the sum decides about
its event (R145, R146, R151). -/
theorem State.listening.received_frame {s : State} {len : Half} {ty ck : Byte} {os : List Byte} {p : DPath}
    {q : BitVec 16} (hl : s.listening) (hr : route s.cfg ty len = .path p q) (hlen : os.length + 1 = len.toNat) :
    ∃ t, receiveBytes (wireFrame (ty :: os) ck) s = .next t ∧
      s.arrival t (os.length + 5)
        (if sumBytes (ty :: (os ++ [ck])) = Config.chkOk then ((s.dec.routed len p q).withBody (ty :: os)).event
          else .checksumFail ty len) ∧
      t.dec = ((s.dec.routed len p q).withBody (ty :: os)).progress s.dec.phase len
        (sumBytes (ty :: (os ++ [ck]))) := by
  obtain ⟨hq, hp⟩ := s.listening_iff.1 hl
  have hsplit := be16_byteOf16 len
  have hwire : wireFrame (ty :: os) ck =
      Config.start :: byteOf16 len 0 :: byteOf16 len 1 :: ty :: (os ++ [ck]) := by
    rw [wireFrame, List.length_cons, hlen, BitVec.ofNat_toNat, BitVec.setWidth_eq]
    rfl
  have hreads := DecoderState.reads_frame (hi := byteOf16 len 0) (lo := byteOf16 len 1) hp (by rwa [hsplit])
    (by rwa [hsplit]) ck
  rw [hsplit, ← hwire] at hreads
  obtain ⟨t, ht⟩ := hq.received_reads hreads
  have harrival := ht.arrival rfl
  rw [length_wireFrame] at harrival
  exact ⟨t, ht.run, harrival, by rw [ht.dec, hp]⟩

theorem toNat_sized_len {n overhead : Nat} (h : n + overhead < 65536) :
    (BitVec.ofNat 16 (n + overhead)).toNat = n + overhead :=
  Nat.mod_eq_of_lt h

/-- The payload length that goes with a Length (R136). -/
theorem sized_len_sub {n overhead : Nat} :
    BitVec.ofNat 16 (n + overhead) - BitVec.ofNat 16 overhead = BitVec.ofNat 16 n := by
  rw [BitVec.ofNat_add, BitVec.add_sub_cancel]

theorem route_sized {cfg : Config} {n overhead : Nat} (h : n + overhead < 65536) (hfits : n ≤ cfg.rxpMax) (p : DPath) :
    routeSized cfg p overhead (BitVec.ofNat 16 (n + overhead)) = .path p (BitVec.ofNat 16 n) := by
  have hlen := toNat_sized_len h
  rw [routeSized_of_legal (by omega) (by omega), sized_len_sub]

/-- A payload that fits stands in `RXP` from slot 0, and the slots behind it stay (R19, R138, R140). -/
theorem read_staged_payload {bound : Nat} {m : Memory} {data : List Byte} (hw : m.wf bound = true)
    (h : data.length ≤ bound) (i : Nat) :
    (m.writeList 0 data).read i = if i < data.length then data.getD i 0 else m.read i := by
  rw [Memory.read_writeList i hw (by rwa [Nat.zero_add])]
  simp

/-- A staged payload is what the event takes from `RXP` (R139, R141). -/
theorem readList_staged_payload {bound : Nat} {m : Memory} {data : List Byte} (hw : m.wf bound = true)
    (h : data.length ≤ bound) (hshort : data.length < 65536) :
    (m.writeList 0 data).readList 0 (BitVec.ofNat 16 data.length).toNat = data := by
  rw [BitVec.toNat_ofNat, Nat.mod_eq_of_lt hshort]
  exact readList_writeList hw (by rwa [Nat.zero_add])

theorem DecoderState.routed_withBody_rx (d : DecoderState) (len q : Half) (src : Addr64) (net : Half) (opt : Byte)
    (data : List Byte) :
    (d.routed len .rx q).withBody (typeRx :: (bytes64 src ++ bytes16 net ++ [opt] ++ data)) =
      { d with
        len := len, path := .rx, plen := q, addr64 := src, addr16 := net, opts := opt
        rxp := d.rxp.writeList 0 data } := by
  simp [DecoderState.withBody, DecoderState.routed, bytes64, bytes16]

theorem DecoderState.routed_withBody_atresp (d : DecoderState) (len q : Half) (id c1 c2 status : Byte)
    (data : List Byte) :
    (d.routed len .atresp q).withBody (typeAtresp :: id :: c1 :: c2 :: status :: data) =
      { d with
        len := len, path := .atresp, plen := q, id := id, status := status, rxp := d.rxp.writeList 0 data } :=
  rfl

theorem DecoderState.routed_withBody_txstat (d : DecoderState) (len q : Half) (id : Byte) (net : Half)
    (retry delivery discovery : Byte) :
    (d.routed len .txstat q).withBody (typeTxstat :: id :: (bytes16 net ++ [retry, delivery, discovery])) =
      { d with
        len := len, path := .txstat, plen := q, id := id, addr16 := net, retry := retry, delivery := delivery
        discovery := discovery } := by
  simp [DecoderState.withBody, DecoderState.routed, bytes16]

/-- Settles O45: the route of a 0x90 frame, and its body is its fields. -/
theorem rxFrameIsDelivered : Obligations.RxFrameIsDelivered := by
  rintro src net opt data ck sum s hl hw hwf rfl
  obtain ⟨hlen, hfits⟩ := of_decide_eq_true hwf
  have hcount : (bytes64 src ++ bytes16 net ++ [opt] ++ data).length = data.length + 11 := by simp +arith
  have hevent := congrArg (Event.rxData src net opt) (readList_staged_payload hw hfits (by omega))
  obtain ⟨t, hrun, harrival, hdec⟩ := hl.received_frame (ty := typeRx) (ck := ck)
    (os := bytes64 src ++ bytes16 net ++ [opt] ++ data) (route_sized hlen hfits .rx)
    (by rw [hcount, toNat_sized_len hlen]; rfl)
  rw [DecoderState.routed_withBody_rx] at harrival hdec
  rw [hcount, DecoderState.event, hevent] at harrival
  refine ⟨t, hrun, harrival, ?_, ?_⟩ <;> rw [hdec]
  · exact read_staged_payload hw hfits
  · rfl

/-- Settles O46: the route of a 0x88 frame, and its body is its fields. -/
theorem atResponseFrameIsDelivered : Obligations.AtResponseFrameIsDelivered := by
  rintro id c1 c2 status data ck sum s hl hw hwf rfl
  obtain ⟨hlen, hfits⟩ := of_decide_eq_true hwf
  have hevent := congrArg (Event.atResponse id status) (readList_staged_payload hw hfits (by omega))
  obtain ⟨t, hrun, harrival, hdec⟩ := hl.received_frame (ty := typeAtresp) (ck := ck)
    (os := id :: c1 :: c2 :: status :: data) (route_sized hlen hfits .atresp)
    (by rw [toNat_sized_len hlen]; rfl)
  rw [DecoderState.routed_withBody_atresp] at harrival hdec
  rw [DecoderState.event, hevent] at harrival
  refine ⟨t, hrun, harrival, ?_, ?_⟩ <;> rw [hdec]
  · exact read_staged_payload hw hfits
  · rfl

/-- Settles O47: the routes of the two status frames, and their bodies are their fields. -/
theorem statusFramesAreDelivered : Obligations.StatusFramesAreDelivered := by
  intro s hl
  constructor
  · rintro status ck sum rfl
    obtain ⟨t, hrun, harrival, hdec⟩ :=
      hl.received_frame (len := 2) (ty := typeModem) (ck := ck) (os := [status]) rfl rfl
    have hsum : sumBytes (typeModem :: ([status] ++ [ck])) = 0x8A + status + ck := by
      simp [sumBytes, typeModem, BitVec.add_assoc]
    rw [hsum] at harrival hdec
    exact ⟨t, hrun, harrival, hdec⟩
  · rintro id net retry delivery discovery ck sum rfl
    obtain ⟨t, hrun, harrival, hdec⟩ :=
      hl.received_frame (len := 7) (ty := typeTxstat) (ck := ck)
        (os := id :: (bytes16 net ++ [retry, delivery, discovery])) rfl rfl
    rw [DecoderState.routed_withBody_txstat] at harrival hdec
    rw [DecoderState.event, sendFailed_eq] at harrival
    exact ⟨t, hrun, harrival, hdec⟩

/-- Settles O48: each failure's route; a frame that is not decodable has no path. -/
theorem otherFramesAreSkipped : Obligations.OtherFramesAreSkipped := by
  intro len ty rest e s hl hwf h
  rw [WellFormed, Bool.and_eq_true, beq_iff_eq, Bool.not_eq_true'] at hwf
  obtain ⟨hrest, hskip⟩ := hwf
  have hnopath : ∀ p q, route s.cfg ty len ≠ .path p q := fun p q hr => by
    rw [decodable_of_route_eq_path hr] at hskip
    cases hskip
  obtain ⟨k, hroute, rfl⟩ : ∃ k, route s.cfg ty len = .fail k ∧ e = k.event ty len := by
    rcases h with ⟨hrx, hatresp, hmodem, htxstat, rfl⟩ | ⟨hbad, rfl⟩ | ⟨hover, rfl⟩
    · exact ⟨.unknownType, route_unknownType hrx hatresp hmodem htxstat s.cfg len, rfl⟩
    · refine ⟨.badLength, route_badLength ?_ s.cfg, rfl⟩
      rcases hbad with hshort | hshort | rfl | rfl
      · exact .inl hshort
      · exact .inr (.inl hshort)
      · exact .inr (.inr (.inl ⟨rfl, fun hlen => hnopath .modem 0 (if_pos hlen)⟩))
      · exact .inr (.inr (.inr ⟨rfl, fun hlen => hnopath .txstat 0 (if_pos hlen)⟩))
    · refine ⟨.oversize, route_oversize ?_, rfl⟩
      rcases hover with ⟨rfl, hlegal⟩ | ⟨rfl, hlegal⟩
      · exact .inl ⟨rfl, hlegal, Nat.not_le.1 fun hfits => hnopath .rx _ (routeSized_of_legal hlegal hfits .rx)⟩
      · exact .inr ⟨rfl, hlegal, Nat.not_le.1 fun hfits => hnopath .atresp _ (routeSized_of_legal hlegal hfits .atresp)⟩
  exact exec_decSkip_arrival hl hrest hroute

end Sys2Proof.Machine
end

section
/-! SUPPORT. The closed form of the decoder (R152): the automaton reads a string with the events of the closed form, and
the machine with the string pushed, one SYNC and the DECODER run to its end reads what the automaton reads. -/

namespace Sys2Proof.Machine

/-! ### The automaton and the closed form -/

/-- Staging the fields of a body keeps the canonical form of `RXP`. -/
theorem DecoderState.PathInv.withBody_rxp_wf {cfg : Config} {d : DecoderState} (h : d.PathInv cfg)
    (hw : d.rxp.wf cfg.rxpMax = true) {body : List Byte} (hlen : body.length = d.len.toNat) :
    (d.withBody body).rxp.wf cfg.rxpMax = true := by
  cases hpath : d.path <;> simp only [DecoderState.PathInv, hpath] at h <;> simp only [DecoderState.withBody, hpath]
  case rx => exact Memory.writeList_wf hw (by rw [List.length_drop]; omega)
  case atresp => exact Memory.writeList_wf hw (by rw [List.length_drop]; omega)
  case modem | txstat => exact hw

section
variable {cfg : Config} {d : DecoderState} {hi lo ty : Byte} {os : List Byte} (hp : d.phase = .dSync)
include hp

/-- The front of a frame of a decode path delivers nothing and leaves the DECODER inside it (R133). -/
theorem DecoderState.reads_unfinished_frame {p : DPath} {q : BitVec 16} (hr : route cfg ty (be16 hi lo) = .path p q)
    (hle : os.length + 1 ≤ (be16 hi lo).toNat) :
    ∃ d', d.Reads cfg (Config.start :: hi :: lo :: ty :: os) d' [] ∧ d'.phase ∈ [DPhase.dBody, DPhase.dCksum] := by
  have hinv : (d.routed (be16 hi lo) p q).PathInv cfg := pathInv_of_route hr
  have hfits : 0 + (ty :: os).length ≤ (be16 hi lo).toNat := by rwa [List.length_cons, Nat.zero_add]
  obtain ⟨d', hst⟩ := hinv.exists_storeFrom hfits
  refine ⟨_, DecoderState.reads_routed hp hr hle hst, ?_⟩
  rw [DecoderState.progress]
  split <;> simp

/-- A frame that D_TYPE does not route, or its front: the failure is reported, and the bytes behind are skipped (R147,
R176). -/
theorem DecoderState.reads_failed {k : Failure} (hr : route cfg ty (be16 hi lo) = .fail k)
    (hle : os.length ≤ (be16 hi lo).toNat) :
    ∃ d', d.Reads cfg (Config.start :: hi :: lo :: ty :: os) d' [k.event ty (be16 hi lo)] ∧ d'.rxp = d.rxp ∧
      d'.phase = if os.length = (be16 hi lo).toNat then .dSync else .dSkip := by
  have hreport := TakesByte.report (cfg := cfg) (d := { d with len := be16 hi lo }.progress .dType 0 0) k rfl hr
  have hskip := DecoderState.reads_skip (cfg := cfg) (bs := os)
    (d := { ({ d with len := be16 hi lo }.progress .dType 0 0) with
      rem := (be16 hi lo).setWidth 17, phase := if (be16 hi lo).setWidth 17 = 0#17 then .dSync else .dSkip })
    rfl (by show os.length ≤ ((be16 hi lo).setWidth 17).toNat; bv_omega)
  have hend : (be16 hi lo).setWidth 17 - BitVec.ofNat 17 os.length = 0#17 ↔ os.length = (be16 hi lo).toNat := by
    bv_omega
  refine ⟨_, ((DecoderState.reads_header hp cfg hi lo).append hreport.reads).append hskip, rfl, ?_⟩
  simp only [hend]

end

/-! ### The closed form, case by case -/

section
variable {cfg : Config} {hi lo ty : Byte} (fuel : Nat)

theorem decClosed_discard {b : Byte} (hb : b ≠ Config.start) (rest : List Byte) :
    decClosed cfg (fuel + 1) (b :: rest) = decClosed cfg fuel rest := by
  simp [decClosed, hb]

theorem decClosed_failed_front {k : Failure} {os : List Byte} (hr : route cfg ty (be16 hi lo) = .fail k)
    (hlt : os.length < (be16 hi lo).toNat) :
    decClosed cfg (fuel + 1) (Config.start :: hi :: lo :: ty :: os) = ([k.event ty (be16 hi lo)], [.dSkip]) := by
  simp [decClosed, hr, hlt]

theorem decClosed_failed {k : Failure} {os : List Byte} (hr : route cfg ty (be16 hi lo) = .fail k)
    (hlen : os.length = (be16 hi lo).toNat) (more : List Byte) :
    decClosed cfg (fuel + 1) (Config.start :: hi :: lo :: ty :: (os ++ more)) =
      (k.event ty (be16 hi lo) :: (decClosed cfg fuel more).1, (decClosed cfg fuel more).2) := by
  simp [decClosed, hr, ← hlen]

theorem decClosed_unfinished_frame {p : DPath} {q : BitVec 16} {os : List Byte}
    (hr : route cfg ty (be16 hi lo) = .path p q) (hlt : os.length < (be16 hi lo).toNat) :
    decClosed cfg (fuel + 1) (Config.start :: hi :: lo :: ty :: os) = ([], [.dBody, .dCksum]) := by
  simp [decClosed, hr, hlt]

theorem decClosed_frame {p : DPath} {q : BitVec 16} {os : List Byte} (hr : route cfg ty (be16 hi lo) = .path p q)
    (hlen : os.length + 1 = (be16 hi lo).toNat) (ck : Byte) (more : List Byte) :
    decClosed cfg (fuel + 1) (Config.start :: hi :: lo :: ty :: (os ++ [ck] ++ more)) =
      ((if sumBytes (ty :: (os ++ [ck])) = Config.chkOk then bodyEvent p (ty :: os)
          else .checksumFail ty (be16 hi lo)) ::
        (decClosed cfg fuel more).1, (decClosed cfg fuel more).2) := by
  have htake : (os ++ ck :: more).take (os.length + 1) = os ++ [ck] := by simp [List.take_append]
  have hdrop : (os ++ ck :: more).drop (os.length + 1) = more := by simp [List.drop_append]
  simp [decClosed, hr, ← hlen, htake, hdrop]

end

/-- What the DECODER at `d` delivers for a string, and the phases it may then be in. -/
def DecoderState.ReadsAs (cfg : Config) (d : DecoderState) (bs : List Byte) (r : List Event × List DPhase) : Prop :=
  ∃ d', d.Reads cfg bs d' r.1 ∧ d'.phase ∈ r.2

theorem DecoderState.Reads.readsAs_append {cfg : Config} {d d' : DecoderState} {bs cs : List Byte} {es : List Event}
    {r : List Event × List DPhase} (h : d.Reads cfg bs d' es) (h' : d'.ReadsAs cfg cs r) :
    d.ReadsAs cfg (bs ++ cs) (es ++ r.1, r.2) := by
  obtain ⟨d'', hreads, hphase⟩ := h'
  exact ⟨d'', h.append hreads, hphase⟩

/-- The closed form with this much fuel is what the automaton in D_SYNC does with every string that the fuel bounds. -/
def ClosedFormReads (cfg : Config) (fuel : Nat) : Prop :=
  ∀ (d : DecoderState) (bs : List Byte), d.phase = .dSync → d.rxp.wf cfg.rxpMax = true → bs.length < fuel →
    d.ReadsAs cfg bs (decClosed cfg fuel bs)

section
variable {cfg : Config} {fuel : Nat} (ih : ClosedFormReads cfg fuel) {d : DecoderState} {hi lo ty : Byte}
  {os : List Byte} (hp : d.phase = .dSync) (hw : d.rxp.wf cfg.rxpMax = true) (hfuel : os.length < fuel)
include ih hp hw hfuel

theorem ClosedFormReads.failed {k : Failure} (hr : route cfg ty (be16 hi lo) = .fail k) :
    d.ReadsAs cfg (Config.start :: hi :: lo :: ty :: os)
      (decClosed cfg (fuel + 1) (Config.start :: hi :: lo :: ty :: os)) := by
  by_cases hlt : os.length < (be16 hi lo).toNat
  case pos =>
    obtain ⟨d', hreads, _, hphase⟩ := DecoderState.reads_failed hp hr hlt.le
    rw [decClosed_failed_front fuel hr hlt]
    exact ⟨d', hreads, by simp [hphase, hlt.ne]⟩
  case neg =>
    obtain ⟨front, more, rfl, hlen⟩ : ∃ front more, os = front ++ more ∧ front.length = (be16 hi lo).toNat :=
      ⟨_, _, (List.take_append_drop _ os).symm, List.length_take_of_le (Nat.not_lt.1 hlt)⟩
    obtain ⟨d', hreads, hrxp, hphase⟩ := DecoderState.reads_failed hp hr hlen.le
    rw [if_pos hlen] at hphase
    rw [List.length_append] at hfuel
    rw [decClosed_failed fuel hr hlen]
    exact hreads.readsAs_append (ih d' more hphase (by rwa [hrxp]) (by omega))

theorem ClosedFormReads.frame {p : DPath} {q : BitVec 16} (hr : route cfg ty (be16 hi lo) = .path p q) :
    d.ReadsAs cfg (Config.start :: hi :: lo :: ty :: os)
      (decClosed cfg (fuel + 1) (Config.start :: hi :: lo :: ty :: os)) := by
  by_cases hlt : os.length < (be16 hi lo).toNat
  case pos =>
    rw [decClosed_unfinished_frame fuel hr hlt]
    exact DecoderState.reads_unfinished_frame hp hr hlt
  case neg =>
    have hpos := len_pos_of_route hr
    obtain ⟨front, ck, more, rfl, hlen⟩ :
        ∃ front ck more, os = front ++ [ck] ++ more ∧ front.length + 1 = (be16 hi lo).toNat := by
      have hsplit := (List.take_append_drop (be16 hi lo).toNat os).symm
      have htake : (os.take (be16 hi lo).toNat).length = (be16 hi lo).toNat := List.length_take_of_le (Nat.not_lt.1 hlt)
      rcases List.eq_nil_or_concat (os.take (be16 hi lo).toNat) with hnil | ⟨front, ck, hfront⟩
      · rw [hnil] at htake
        exact absurd htake hpos.ne
      · rw [List.concat_eq_append] at hfront
        rw [hfront] at htake hsplit
        exact ⟨front, ck, _, hsplit, by simpa using htake⟩
    have hinv : (d.routed (be16 hi lo) p q).PathInv cfg := pathInv_of_route hr
    have hreads := DecoderState.reads_frame hp hr hlen ck
    rw [hinv.event_withBody (body := ty :: front) hw hlen] at hreads
    simp only [List.length_append] at hfuel
    rw [decClosed_frame fuel hr hlen]
    exact hreads.readsAs_append (ih _ more rfl (hinv.withBody_rxp_wf (body := ty :: front) hw hlen) (by omega))

end

/-- The closed form is what the automaton does (R152), by induction on its recursion: one discarded byte or one frame at
a time. -/
theorem closedFormReads (cfg : Config) (fuel : Nat) : ClosedFormReads cfg fuel := by
  induction fuel with
  | zero => exact fun _ _ _ _ hfuel => absurd hfuel (Nat.not_lt_zero _)
  | succ fuel ih =>
    intro d bs hp hw hfuel
    match bs with
    | [] => exact ⟨d, .nil d, by simp [decClosed, hp]⟩
    | b :: rest =>
      by_cases hb : b = Config.start
      case neg =>
        rw [decClosed_discard fuel hb]
        have hrest := ih d rest hp hw (Nat.lt_of_succ_lt_succ hfuel)
        exact (DecoderState.TakesByte.discard hp hb).reads.readsAs_append hrest
      subst hb
      have hmarker := (DecoderState.TakesByte.marker (cfg := cfg) hp rfl).reads
      match rest with
      | [] => exact ⟨_, hmarker, by simp [decClosed]⟩
      | [hi] => exact ⟨_, hmarker.append (DecoderState.TakesByte.lenHi rfl).reads, by simp [decClosed]⟩
      | [hi, lo] => exact ⟨_, DecoderState.reads_header hp cfg hi lo, by simp [decClosed, DecoderState.progress]⟩
      | hi :: lo :: ty :: os =>
        simp only [List.length_cons] at hfuel
        cases hr : route cfg ty (be16 hi lo) with
        | fail k => exact ih.failed hp hw (by omega) hr
        | path p q => exact ih.frame hp hw (by omega) hr

/-! ### The automaton and a ring that holds the string -/

/-- From a ring whose unread bytes are all visible, RUN reads them as the automaton does; each byte takes at most two
steps (R130). -/
theorem runDecoder_reads {s : State} {bs : List Byte} {d : DecoderState} {es : List Event} (hi : s.RingInv)
    (hv : s.tailView = s.tail) (he : s.port.evReady = true) (hu : s.unread = bs) (h : s.dec.Reads s.cfg bs d es) :
    ∃ t, t.dec = d ∧ t.port.events = s.port.events ++ es ∧ ∀ n, 2 * bs.length ≤ n → runDecoder n s = .next t := by
  induction bs generalizing s es with
  | nil =>
    cases h
    have hempty : s.count = 0 := by rw [← s.unread_length, hu, List.length_nil]
    have ha : s.avail = false := by
      rw [avail_eq_false_iff, hv, ← head_add_count, hempty]
      simp
    have hstop : s.decoderEnabled = false := by rw [State.decoderEnabled, ha, Bool.false_and]
    exact ⟨s, rfl, by simp, fun n _ => runDecoder_of_not_enabled hstop n⟩
  | cons b bs ih =>
    cases h with
    | @cons _ d' _ _ _ es₁ es₂ hb hbs =>
      have hcount : s.count ≠ 0 := by rw [← s.unread_length, hu]; simp
      have ha := avail_of_tailView_eq hv hcount
      obtain ⟨rfl, hrest⟩ := List.cons.inj ((unread_eq_cons hi ha false).symm.trans hu)
      obtain ⟨j, hj, hrun⟩ := hb.run ha he
      obtain ⟨t, hdec, hevents, hend⟩ := ih (s := s.taken d' es₁) (RingInv_popByte hi ha false) hv he hrest hbs
      refine ⟨t, hdec, by rw [hevents, ← List.append_assoc]; rfl, fun n hn => ?_⟩
      rw [List.length_cons] at hn
      obtain ⟨m, rfl⟩ : ∃ m, n = m + 1 + j := ⟨n - 1 - j, by omega⟩
      rw [hrun m]
      exact hend m (by omega)

/-! ### The turns of R152 -/

/-- A byte turn at the head of the list is taken, whatever turns are to come. -/
theorem ByteMove.run_succ {s t : State} {x : Turn} (h : ByteMove s x t) (l : List Turn) (n : Nat) :
    Host.Core.run Sys2Proof.core (n + 1) (s.reschedule (x :: l)) = Host.Core.run Sys2Proof.core n (t.reschedule l) :=
  run_succ_of_step (byteMove_iff.1 (h.reschedule l)).2 n

/-- As many DECODER turns as RUN has steps do what RUN does: a turn with no step leaves the state (assumption 7). -/
theorem run_decoder_turns {n : Nat} {s t : State} (h : runDecoder n s = .next t) :
    Host.Core.run Sys2Proof.core n (s.reschedule (List.replicate n .decoder)) = .next (t.reschedule []) := by
  induction n generalizing s with
  | zero => cases h; rfl
  | succ n ih =>
    obtain ⟨u, hstep, hrun⟩ : ∃ u, decoderStep s = .next u ∧ runDecoder n u = .next t := by
      cases he : s.decoderEnabled with
      | true =>
        rw [runDecoder, if_pos he] at h
        exact andThen_eq_next h
      | false =>
        rw [runDecoder_of_not_enabled he] at h
        exact ⟨s, decoderStep_of_not_enabled he, h ▸ runDecoder_of_not_enabled he n⟩
    rw [List.replicate_succ]
    exact ((ByteMove.decoder u hstep).run_succ _ n).trans (ih hrun)

/-- Bytes that arrive outside reset at a ring with room are all pushed (R91, R174). -/
theorem run_rx_turns {bs : List Byte} {s : State} (hi : s.RingInv) (hrst : s.port.rst = false)
    (hview : s.headView = s.head) (hroom : s.count + bs.length ≤ 255) (l : List Turn) (n : Nat) :
    ∃ t : State, Host.Core.run Sys2Proof.core (bs.length + n) (s.reschedule (bs.map .rx ++ l)) =
        Host.Core.run Sys2Proof.core n (t.reschedule l) ∧
      t.RingInv ∧ t.unread = s.unread ++ bs ∧ t.dec = s.dec ∧ t.port = s.port ∧ t.cfg = s.cfg := by
  induction bs generalizing s with
  | nil => exact ⟨s, by simp, hi, by simp, rfl, rfl, rfl⟩
  | cons b bs ih =>
    rw [List.length_cons] at hroom
    have hf : s.fullP = false := by
      rw [State.fullP, hview, beq_eq_false_iff_ne]
      unfold State.count at hroom
      bv_omega
    have hpush := ByteMove.rx b _ (rxInterrupt_of_not_full hrst hf)
    have hcount := count_pushByte hi hf b
    obtain ⟨t, hrun, hti, hunread, hdec, hport, hcfg⟩ := ih (RingInv_pushByte hi hf b) hrst hview (by omega)
    refine ⟨t, ?_, hti, ?_, hdec, hport, hcfg⟩
    · rw [List.length_cons, Nat.add_right_comm]
      exact (hpush.run_succ _ _).trans hrun
    · rw [hunread, unread_pushByte hi hf, List.append_assoc]
      rfl

/-- Settles O51: the bytes are pushed, SYNC makes them visible, and RUN reads them as the closed form says. -/
theorem runIsTheClosedForm : Obligations.RunIsTheClosedForm := by
  intro s bs hl hw hlen
  obtain ⟨hi, ⟨htail, _, hview⟩, hp, he, hrst⟩ := hl
  have hempty : s.count = 0 := by rw [State.count, htail]; simp
  have hnil : s.unread = [] := List.length_eq_zero_iff.1 (s.unread_length.trans hempty)
  obtain ⟨u, hrx, hui, hunread, hdec, hport, hcfg⟩ :=
    run_rx_turns (bs := bs) hi hrst hview (by omega) (.sync .both :: List.replicate 512 .decoder) 513
  obtain ⟨d, hreads, hphase⟩ := closedFormReads s.cfg (bs.length + 1) s.dec bs hp hw (Nat.lt_succ_self _)
  have hsync := (ByteMove.sync (s := u) .both).run_succ (List.replicate 512 .decoder) 512
  obtain ⟨t, htdec, htevents, hrun⟩ := runDecoder_reads (s := u.syncViews true true) (bs := bs) (d := d)
    (RingInv_syncViews hui true true) (by simp) (by simpa [hport] using he) (by simp [hunread, hnil])
    (by simpa [hdec, hcfg] using hreads)
  refine ⟨t.reschedule [], (hrx.trans hsync).trans (run_decoder_turns (hrun 512 (by omega))), ?_, ?_⟩
  · exact htevents.trans (by rw [State.syncViews_port, hport]; rfl)
  · exact (congrArg DecoderState.phase htdec).symm ▸ hphase

end Sys2Proof.Machine
end

section
/-! SUPPORT. Progress (R173): every agent's step, every whole frame and every turn answers a next state. Only D_BODY and
E_BODY can stop at all, and the invariant keeps both inside their layouts. -/

namespace Sys2Proof.Machine

/-- An operation with one enabled case answers a next state: where it is not enabled its agent waits (R31). -/
theorem ite_wait_completes (c : Prop) [Decidable c] (s t : State) :
    ∃ u, (if c then .next t else wait s : Host.Outcome State Fault Refusal) = .next u := by
  split
  · exact ⟨t, rfl⟩
  · exact ⟨s, rfl⟩

/-! ### The agents' steps -/

/-- The receive interrupt always ends: the byte is lost, dropped or pushed (R91, R92, R174). -/
theorem rxInterrupt_completes (b : Byte) (s : State) : ∃ t, rxInterrupt b s = .next t := by
  cases hr : s.port.rst with
  | true => exact ⟨s, rxInterrupt_in_reset hr⟩
  | false =>
    cases hf : s.fullP with
    | true => exact ⟨_, rxInterrupt_of_full hr hf⟩
    | false => exact ⟨_, rxInterrupt_of_not_full hr hf⟩

/-- D_TYPE routes the frame, reports a failure, or waits: no type byte and no Length stops it (R136, R172). -/
theorem execDType_completes (s : State) : ∃ t, execDType s = .next t := by
  unfold execDType
  split
  · split
    · exact ⟨_, rfl⟩
    · exact ite_wait_completes ..
  · exact ⟨s, rfl⟩

/-- The DECODER's invariant keeps its step from stopping; only D_BODY needs it. -/
theorem decoderStep_completes {s : State} (hi : s.dec.Inv s.cfg) : ∃ t, decoderStep s = .next t := by
  unfold decoderStep
  split
  case h_1 => split <;> exact ite_wait_completes ..
  case h_2 | h_3 | h_6 | h_7 => exact ite_wait_completes ..
  case h_4 => exact execDType_completes s
  case h_5 => exact execDBody_inside fun hp hlt => (hi.pathInv hp).inside hlt

/-- CMD_ACCEPT accepts or rejects the waiting command, or waits (R111). -/
theorem execCmdAccept_completes (s : State) : ∃ t, execCmdAccept s = .next t := by
  unfold execCmdAccept
  split
  · exact ⟨s, rfl⟩
  · split
    · split <;> exact ⟨_, rfl⟩
    · exact ⟨s, rfl⟩

/-- E_LEN sends a byte of the Length, or waits (R113). -/
theorem execELen_completes (s : State) : ∃ t, execELen s = .next t := by
  unfold execELen
  split
  · exact ⟨_, rfl⟩
  · exact ite_wait_completes ..

/-- The ENCODER's invariant keeps its step from stopping; only E_BODY needs it. -/
theorem encoderStep_completes {s : State} (hi : s.enc.Inv) : ∃ t, encoderStep s = .next t := by
  unfold encoderStep
  split
  case h_1 => exact execCmdAccept_completes s
  case h_2 | h_6 => exact ite_wait_completes ..
  case h_3 | h_4 => exact execELen_completes s
  case h_5 => exact execEBody_inside fun hp hlt => (hi.lenInv hp).inside hlt

/-! ### Byte turns and whole frames -/

/-- In a state that meets the invariant every byte turn can be taken (R5, R7). -/
theorem ByteMove.exists_of_inv {s : State} (hi : s.Inv) {x : Turn} (hx : byteTurn x = true) : ∃ t, ByteMove s x t := by
  obtain ⟨_, hdec, henc, _⟩ := hi
  cases x with
  | rx b => exact (rxInterrupt_completes b s).imp (.rx b)
  | decoder => exact (decoderStep_completes hdec).imp .decoder
  | encoder => exact (encoderStep_completes henc).imp .encoder
  | sync c => exact ⟨_, .sync c⟩
  | command c => exact ⟨_, .command c⟩
  | pop | peek | sample | reset | rst | txReady | evReady | frame => cases hx

/-- A command offered and its frame sent: the run of the ENCODER does not stop (R110, R173). -/
theorem sendCommand_completes (c : Command) {s : State} (hi : s.Inv) : ∃ t, sendCommand c s = .next t := by
  have encoder_step : ∀ u : State, u.Inv → u.encoderEnabled = true → ∃ t, encoderStep u = .next t ∧ t.Inv := by
    intro u hu _
    have ⟨_, _, henc, _⟩ := hu
    obtain ⟨t, ht⟩ := encoderStep_completes henc
    exact ⟨t, ht, (ByteMove.encoder t ht).inv hu⟩
  obtain ⟨t, hrun, _⟩ := runEncoder_completes encoder_step sendFuel (s.offer c) ((ByteMove.command c).inv hi)
  exact ⟨t, hrun⟩

/-- Bytes received, whatever they are, do not stop the machine (R173). -/
theorem receiveBytes_completes_of_inv (bs : List Byte) {s : State} (hi : s.Inv) : ∃ t, receiveBytes bs s = .next t := by
  have interrupt : ∀ (b : Byte) (u : State), u.Inv → ∃ t, rxInterrupt b u = .next t ∧ t.Inv := by
    intro b u hu
    obtain ⟨t, ht⟩ := rxInterrupt_completes b u
    exact ⟨t, ht, (ByteMove.rx b t ht).inv hu⟩
  have decoder_step : ∀ u : State, u.Inv → u.decoderEnabled = true → ∃ t, decoderStep u = .next t ∧ t.Inv := by
    intro u hu _
    have ⟨_, hdec, _, _⟩ := hu
    obtain ⟨t, ht⟩ := decoderStep_completes hdec
    exact ⟨t, ht, (ByteMove.decoder t ht).inv hu⟩
  obtain ⟨t, hrun, _⟩ := receiveBytes_completes
    (fun b => receiveByte_completes b (interrupt b) (fun _ hu => (ByteMove.sync .both).inv hu) decoder_step) bs s hi
  exact ⟨t, hrun⟩

/-- No whole-frame operation stops the machine (R7, R173). -/
theorem exec_frame_completes {i : Instr} {s : State} (hf : (encode i).isSome = true) (hi : s.Inv) :
    ∃ t, exec i s = .next t := by
  cases i with
  | encTx | encAt => exact sendCommand_completes _ hi
  | decRx | decAtresp | decModem | decTxstat | decSkip => exact receiveBytes_completes_of_inv _ hi
  | _ => cases hf

/-- A frame turn runs the operation its bytes decode to, and bytes that are no frame arrive all the same
(assumption 18). -/
theorem step_present_frame_completes (dir : Direction) (bytes : List Byte) {s : State} (hi : s.Inv) :
    ∃ t, step (s.present (.frame dir bytes)) = .next t := by
  cases hd : decode s.cfg dir bytes with
  | ok r =>
    obtain ⟨i, more⟩ := r
    rw [step_present_frame_ok hd]
    exact exec_frame_completes (decode_encode_isSome hd) hi
  | error e =>
    rw [step_present_frame_error hd]
    cases dir with
    | received => exact receiveBytes_completes_of_inv bytes hi
    | sent => exact ⟨s, rfl⟩

/-! ### Every turn -/

/-- No turn stops the machine: the turns that are no byte step drive a port, read the ring, or are RESET (R7, R8, R93, R94,
R200). -/
theorem step_present_completes (x : Turn) {s : State} (hi : s.Inv) : ∃ t, step (s.present x) = .next t := by
  cases hx : byteTurn x with
  | true =>
    obtain ⟨t, hmove⟩ := ByteMove.exists_of_inv hi hx
    exact ⟨t, (byteMove_iff.1 hmove).2⟩
  | false =>
    cases x with
    | rx | decoder | encoder | sync | command => cases hx
    | pop | peek => exact ite_wait_completes ..
    | rst level => cases level <;> exact ⟨_, rfl⟩
    | reset | sample | txReady | evReady => exact ⟨_, rfl⟩
    | frame dir bytes => exact step_present_frame_completes dir bytes hi

/-- Settles O14: whatever turn a step fetches, listed or free, the invariant lets it answer a next state. -/
theorem nothingIsFatal : Obligations.NothingIsFatal := by
  intro s hi
  exact step_present_completes (fetchTurn s).1 (fetchTurn_inv hi)

end Sys2Proof.Machine
end

section
/-! SUPPORT. Rest (R203): a drained ring shows the DECODER no byte and leaves SYNC nothing to copy, and an idle ENCODER has
no command to accept. -/

namespace Sys2Proof.Machine

/-- A drained ring has no visible byte (R23, R90). -/
theorem State.drained.avail_eq_false {s : State} (h : s.drained) : s.avail = false := by
  obtain ⟨htail, hview, _⟩ := h
  rw [avail_eq_false_iff, hview, htail]

/-- In a drained ring both views are current already, in either mode (R98, R99). -/
theorem State.drained.syncViews_eq {s : State} (h : s.drained) (a b : Bool) : s.syncViews a b = s := by
  obtain ⟨_, htail, hhead⟩ := h
  cases hc : s.cfg.cdc with
  | synchronised =>
    rw [State.tailView_synchronised s hc] at htail
    rw [State.headView_synchronised s hc] at hhead
    exact State.syncViews_of_current htail hhead a b
  | atomic => exact State.syncViews_atomic hc a b

/-- Settles O16: the DECODER has no byte to take, the ENCODER no command to accept, and SYNC copies views that are
current. -/
theorem atRestNothingMoves : Obligations.AtRestNothingMoves := by
  intro a b s ⟨hdrained, _, hidle, hcmds⟩
  have hdec : exec (decoderInstr s) s = .next s :=
    exec_decoderRow_of_not_avail (decoderRow_decoderInstr s) hdrained.avail_eq_false
  have henc : exec (encoderInstr s) s = .next s := by
    rw [← encoderStep_eq_exec]
    exact encoderStep_of_no_command hidle hcmds
  have hsync : exec (.sync a b) s = .next s := congrArg Host.Outcome.next (hdrained.syncViews_eq a b)
  exact ⟨hdec, henc, hsync⟩

end Sys2Proof.Machine
end
